-- ==== Sys2Proof/Word.lean ====
section
/-! DEFINITION. The words of the SFE: a byte (spec/00_scope.md R9), the 32-bit bus and register word (R52, R60), the
64-bit IV counter (R35) and the 16-byte block of the cipher (R190).

A `Block` is a string of 16 bytes held as one 128-bit vector, byte 0 the MOST significant: `int_be` of R9 is then the
vector's own number, so that the counter blocks of R165 are plain 128-bit additions. -/

namespace Sys2Proof

/-- A byte, 0 to 255 (R9). -/
abbrev Byte := BitVec 8

/-- A 32-bit register or bus word (R52, R60). -/
abbrev Word := BitVec 32

/-- The 64-bit IV counter's type (R35). -/
abbrev Dword := BitVec 64

/-- A 16-byte string (a key, an IV block, a cipher block), byte 0 most significant. -/
abbrev Block := BitVec 128

end Sys2Proof
end

