-- ==== Sys2Proof/Syntax.lean ====
section
/-! DEFINITION. The commands of the SFE: one constructor for each row of spec/opcode_table.json (30_encoding.md R94). -/

namespace Sys2Proof

/-- A command of the SFE, as the word of R91 gives it: the opcode chooses the constructor, ARG is its operand (R93). -/
inductive Instr where
  /-- CFG_LOAD (R120): validate and load the configuration; no operand. -/
  | cfgLoad
  /-- LINK_INIT (R129): the whole ARG byte, of which OK is bit 0 and bits 7:1 must be 0 (R93). -/
  | linkInit (arg : Byte)
  /-- FRAME (R140): ARG is LEN, the payload's byte length. -/
  | frame (len : Byte)
  /-- TRANSMIT (R160): ARG is LEN, the frame's byte length. -/
  | transmit (len : Byte)
deriving DecidableEq, Repr

end Sys2Proof
end

