-- ==== Sys2Proof/WellFormed.lean ====
section
/-! DEFINITION. Which terms of `Instr` are commands of the SFE (spec/30_encoding.md R93). -/

namespace Sys2Proof

/-- R93's conditions on the operands. LEN may be any byte; "ARG[7:1] must be 0" for LINK_INIT; CFG_LOAD takes no operand
(its ARG field is no part of the term, and the encoder writes 0). -/
def Instr.wellFormed : Instr → Bool
  | .cfgLoad => true
  | .linkInit arg => arg &&& 0xFE#8 == 0#8
  | .frame _ => true
  | .transmit _ => true

end Sys2Proof
end

