-- ==== Sys2Proof/Decode.lean ====
section
/-! DEFINITION. The command word's decoder and encoder (spec/30_encoding.md R91 to R96). The decoder is total on 32-bit
words and on byte strings, and rejects by name; the encoder is written from the same opcode map. -/

namespace Sys2Proof

/-- Why a word is no command (R96), or a byte string no word. -/
inductive Illegal where
  /-- OP is 0x00 or 0x05..0xFF. -/
  | unknownOp (op : Byte)
  /-- RSV, bits 31:16, is not 0. -/
  | reservedBits
  /-- CFG_LOAD with ARG not 0. -/
  | cfgLoadArg (arg : Byte)
  /-- LINK_INIT with ARG[7:1] not 0. -/
  | linkInitArg (arg : Byte)
  /-- Not four bytes: a command is one 32-bit word and nothing else (R91). -/
  | notOneWord (bytes : Nat)
deriving DecidableEq, Repr

/-! ## The fields of R91 -/

/-- OP, bits 7:0. -/
def opField (w : Word) : Byte := w.extractLsb' 0 8
/-- ARG, bits 15:8. -/
def argField (w : Word) : Byte := w.extractLsb' 8 8
/-- RSV, bits 31:16. -/
def rsvField (w : Word) : BitVec 16 := w.extractLsb' 16 16

/-! ## The opcode map of R94 -/

/-- One row of R94: a word is the row's command iff `word &&& mask = pattern`. -/
structure OpRow where
  mnemonic : String
  mask : Word
  pattern : Word
deriving DecidableEq, Repr

/-- R94's row for CFG_LOAD. -/
def rowCfgLoad : OpRow := ⟨"CFG_LOAD", 0xFFFFFFFF#32, 0x00000001#32⟩
/-- R94's row for LINK_INIT. -/
def rowLinkInit : OpRow := ⟨"LINK_INIT", 0xFFFFFEFF#32, 0x00000002#32⟩
/-- R94's row for FRAME. -/
def rowFrame : OpRow := ⟨"FRAME", 0xFFFF00FF#32, 0x00000003#32⟩
/-- R94's row for TRANSMIT. -/
def rowTransmit : OpRow := ⟨"TRANSMIT", 0xFFFF00FF#32, 0x00000004#32⟩

/-- The whole map of R94. -/
def opRows : List OpRow := [rowCfgLoad, rowLinkInit, rowFrame, rowTransmit]

/-- "A word w is that command iff (w and mask) = match" (R94). -/
def OpRow.holds (r : OpRow) (w : Word) : Bool := w &&& r.mask == r.pattern

/-- `Legal(w)` (R95). -/
def legal (w : Word) : Bool := opRows.any (·.holds w)

/-- Which of R96's cases makes an illegal word illegal (the first that applies, in the order opcode, RSV, ARG: the
hardware answers all of them alike, with ILLEGAL_CMD). -/
def illegalReason (w : Word) : Illegal :=
  if opField w == 0#8 || 5#8 ≤ opField w then .unknownOp (opField w)
  else if rsvField w != 0#16 then .reservedBits
  else if opField w == 1#8 then .cfgLoadArg (argField w)
  else .linkInitArg (argField w)

/-- R90's decoding of a command word, with R93's operands. -/
def decodeWord (w : Word) : Except Illegal Instr :=
  if rowCfgLoad.holds w then .ok .cfgLoad
  else if rowLinkInit.holds w then .ok (.linkInit (argField w))
  else if rowFrame.holds w then .ok (.frame (argField w))
  else if rowTransmit.holds w then .ok (.transmit (argField w))
  else .error (illegalReason w)

/-- The 32-bit word of four bytes in bus lane order, byte i in bits 8i+7:8i (20_memory.md R64). -/
def wordOfLanes (b0 b1 b2 b3 : Byte) : Word := b3 ++ b2 ++ b1 ++ b0

/-- The decoder on bytes: a command is exactly one 32-bit word (R91: "There is no other length"). -/
def decodeBytes : List Byte → Except Illegal Instr
  | [b0, b1, b2, b3] => decodeWord (wordOfLanes b0 b1 b2 b3)
  | bs => .error (.notOneWord bs.length)

/-! ## The encoder -/

/-- The opcode of R94. -/
def opcode : Instr → Byte
  | .cfgLoad => 0x01#8
  | .linkInit _ => 0x02#8
  | .frame _ => 0x03#8
  | .transmit _ => 0x04#8

/-- The ARG field of R93. -/
def argOf : Instr → Byte
  | .cfgLoad => 0x00#8
  | .linkInit arg => arg
  | .frame len => len
  | .transmit len => len

/-- The command word of R91: RSV = 0, ARG, OP. -/
def encode (i : Instr) : Word := 0#16 ++ argOf i ++ opcode i

/-- The four bytes of the command word in bus lane order (20_memory.md R64). -/
def encodeBytes (i : Instr) : List Byte :=
  (List.range 4).map fun k => (encode i).extractLsb' (8 * k) 8

/-! ## The host's numbering -/

/-- The command of the word with bits `w`: bit 0 is the word's least significant bit, as spec/opcode_table.json numbers
it. The bits above `nbits` are zero; the only instruction length is 32 bits, so that a longer number is no command. -/
def decodeTableWord (nbits w : Nat) : Option Instr :=
  if w < 2 ^ 32 ∧ nbits ≤ 32 then
    match decodeBytes ((List.range 4).map fun k => (BitVec.ofNat 32 w).extractLsb' (8 * k) 8) with
    | .ok i => some i
    | .error _ => none
  else none

end Sys2Proof
end

