-- ==== Sys2Proof/Machine/Bytes.lean ====
section
/-! DEFINITION. Byte strings and byte orders (spec/00_scope.md R9, 20_memory.md R64 and R67). -/

namespace Sys2Proof.Machine

/-! ## Blocks as byte strings -/

/-- Byte `i` of a 16-byte string, byte 0 most significant (R9). -/
def byteOf (b : Block) (i : Nat) : Byte := b.extractLsb' (8 * (15 - i)) 8

/-- The number a byte string spells, high byte first (R9's `int_be`), in 128 bits. -/
def blockOfBytes (l : List Byte) : Block := l.foldl (fun acc b => (acc <<< 8) ||| b.setWidth 128) 0#128

/-- The 16-byte string whose byte `i` is `f i`. -/
def blockOf (f : Nat → Byte) : Block := blockOfBytes ((List.range 16).map f)

/-- The 16 bytes of a block, in order (R9's `be128`). -/
def blockBytes (b : Block) : List Byte := (List.range 16).map (byteOf b)

/-- `be64` (R9): the 8 bytes of a 64-bit value, most significant first. -/
def be64 (v : Dword) : List Byte := (List.range 8).map fun i => v.extractLsb' (8 * (7 - i)) 8

/-- Bytewise XOR of two strings (R9). -/
def xorBytes (a b : List Byte) : List Byte := List.zipWith (· ^^^ ·) a b

/-! ## Bus lanes (R64) -/

/-- Lane `i` of a bus word: bits 8i+7:8i. -/
def lane (v : Word) (i : Nat) : Byte := v.extractLsb' (8 * i) 8

/-- The bus word whose lane `i` is byte `i` of the list (R65's sum of `b * 2^(8*i)`). -/
def wordOfBytes : List Byte → Word
  | [] => 0#32
  | b :: bs => (wordOfBytes bs <<< 8) ||| b.setWidth 32

/-- Word `k` of a 16-byte string as a register packs it: byte 4k in bits 7:0 (R43, R64). -/
def blockWord (b : Block) (k : Nat) : Word :=
  wordOfBytes [byteOf b (4 * k), byteOf b (4 * k + 1), byteOf b (4 * k + 2), byteOf b (4 * k + 3)]

/-- The string with bytes 4k..4k+3 replaced by the lanes of `v` (R66's write of CFG_KEYk). -/
def setBlockWord (b : Block) (k : Nat) (v : Word) : Block :=
  blockOf fun i => if i / 4 = k then lane v (i % 4) else byteOf b i

end Sys2Proof.Machine
end

