-- ==== Sys2Proof/Config.lean ====
section
/-! DEFINITION. What is fixed for the SFE and does not change as it runs: the parameters of spec/00_scope.md R5, the
platform's open parameters of R6, and the free values (R6 `PadFill`, 10_state.md R48's draws). -/

namespace Sys2Proof.Config

/-! ## The fixed parameters of R5 -/

/-- `N_BLOCK`: the cipher's block size in bytes. -/
abbrev nBlock : Nat := 16
/-- `KEY_BYTES`: the only key length check (a) passes. -/
abbrev keyBytes : Nat := 16
/-- `IV_BITS`: the width of the IV counter. -/
abbrev ivBits : Nat := 64
/-- `IV_BLOCK_BYTES`: the length of the IV block. -/
abbrev ivBlockBytes : Nat := 16
/-- `CSUM_BITS`: the width of the checksum. -/
abbrev csumBits : Nat := 16
/-- `HDR_BYTES`: the length of the frame header. -/
abbrev hdrBytes : Nat := 3
/-- `POWER_MIN` (dBm). -/
abbrev powerMin : Int := 5
/-- `POWER_MAX` (dBm). -/
abbrev powerMax : Int := 23
/-- `FREQ_SET` (MHz). -/
abbrev freqSet : List Int := [433, 866, 915]
/-- `ADDR_MIN`. -/
abbrev addrMin : Int := 0
/-- `ADDR_MAX`. -/
abbrev addrMax : Int := 254
/-- `MAX_LEN`: the longest frame, in bytes. -/
abbrev maxLen : Nat := 255
/-- `MIN_FRAME_LEN`: the shortest frame FRAME accepts. -/
abbrev minFrameLen : Nat := 3
/-- `FB_BYTES`: the size of the frame buffer. -/
abbrev fbBytes : Nat := 256
/-- `CB_BYTES`: the size of the cipher buffer. -/
abbrev cbBytes : Nat := 256
/-- `ID_VALUE`: the bytes "SFE" and 0x01. -/
abbrev idValue : Word := 0x53464501#32

/-! ## The platform's open parameters (R6, 92_eei_decisions.md D36)

They are an argument of the bus-level functions of Machine/Bus.lean, as R6 asks ("The model takes these as
arguments"); the step itself sees only the window offset the SFE decodes. -/

/-- Where the platform places the SFE's window. -/
structure Platform where
  /-- `SFE_BASE`: the bus address of the 1 KiB window. -/
  sfeBase : Nat
  /-- `BUS_ADDR_BITS`: the width of a host bus address. -/
  busAddrBits : Nat
deriving DecidableEq, Repr

/-- What R6 requires of a placement: aligned to 1024 bytes, and the window lies inside the bus address space. -/
def Platform.wf (p : Platform) : Bool :=
  p.sfeBase % 1024 == 0 && p.sfeBase + 1024 ≤ 2 ^ p.busAddrBits

/-! ## Free values

Neither has a body, so nothing can be proved of the bytes they give. Each is applied to the draw counter of the state's
`outside` part, which every draw advances, so that no two draws of one run are the same application. -/

/-- The padding bytes of an accepted TRANSMIT, `PadFill` (R6, 42_transmit.md R162): "any byte values, chosen afresh at
each accepted TRANSMIT". Log entry 1. -/
opaque padFill : Nat → Byte

/-- What a host read returns for a buffer byte that nothing has written since reset (10_state.md R48: "returns a draw").
Log entry 2. -/
opaque staleByte : Nat → Byte

end Sys2Proof.Config
end

