-- ==== Sys2Proof/Machine/State.lean ====
section
/-! DEFINITION. The state of the SFE (spec/10_state.md R20), the agents' part beside it, the reasons a step can stop, and
the state after reset (R50).

STATE IS PLAIN DATA. The SFE's own elements stand first, in R20's order; `outside` holds what belongs to the host, the
radio and the model itself, which a reset of the SFE does not touch. The buffers FB and CB are one sparse memory keyed
by window offset (R61); an offset is listed exactly when it has been written since reset, so that R48's `FB_WRITTEN` bits
are the list's own keys and are stored once. -/

namespace Sys2Proof.Machine

/-! ## The kinds of R22, R25, R27, R31 and R220 -/

/-- `SEQ` (R22). -/
inductive Seq where
  /-- No transmission is in flight. -/
  | idle
  /-- An accepted TRANSMIT waits for the radio. -/
  | busy
deriving DecidableEq, Repr

/-- `STATUS.CFG_STATE` (R25). Code 3 is never produced and has no constructor. -/
inductive CfgState where
  | unconfigured
  | valid
  | invalid
deriving DecidableEq, Repr

/-- `STATUS.RADIO_STATE` (R27). Code 3 is never produced and has no constructor. -/
inductive RadioState where
  | unknown
  | ok
  | failed
deriving DecidableEq, Repr

/-- `STATUS.RESULT` (R31). -/
inductive TxResult where
  | none
  | sent
  | linkAbsent
  | inProgress
deriving DecidableEq, Repr

/-- The error codes of R220. Codes 12 to 15 are never produced (R231) and have no constructor. -/
inductive ErrCode where
  | ok
  | cfgKey
  | cfgIv
  | cfgPower
  | cfgFreq
  | cfgAddr
  | linkAbsent
  | illegalCmd
  | badLen
  | badState
  | busy
  | ivExhausted
deriving DecidableEq, Repr

/-! ## The buffers -/

/-- The buffers' contents: (window offset, byte) pairs, offsets strictly rising. An offset that is not listed has not been
written since reset. -/
abbrev Memory := List Host.Cell

/-! ## The agents' part -/

/-- The width n of a host access in bytes (R60: 1, 2 or 4). -/
inductive Width where
  | w1
  | w2
  | w4
deriving DecidableEq, Repr

/-- One event that reaches the SFE from outside (R7, R227, R250): a host access, by the window offset the SFE decodes
(R60), the radio's completion signal, or the reset input. -/
inductive Input where
  /-- `MemRead` of n bytes at the offset. -/
  | read (off : BitVec 10) (n : Width)
  /-- `MemWrite` of n bytes at the offset; the data travels in the low n bytes of `v` (R64). -/
  | write (off : BitVec 10) (n : Width) (v : Word)
  /-- `RadioDone` (R232). -/
  | radioDone
  /-- The reset input, or power loss (R250). -/
  | reset
deriving DecidableEq, Repr

/-- What the bus last answered the host. -/
inductive BusResponse where
  /-- No access has been made yet. -/
  | quiet
  /-- A write was taken. -/
  | ack
  /-- A read's value, zero-extended from its n bytes (R65). -/
  | data (v : Word)
  /-- `BusError` (R12, R223). -/
  | error
deriving DecidableEq, Repr

/-- The part of the state that is not the SFE's: what the other agents have sent and received. Model-only. -/
structure Outside where
  /-- The events still to come, the next one first. The step takes them in this order, so every interleaving of host,
  radio and reset (R227) is some list. -/
  inputs : List Input
  /-- The answer to the most recent host access. -/
  response : BusResponse
  /-- Every `RadioSend` emitted so far, oldest first (R232). -/
  sends : List (List Byte)
  /-- How many `RadioDone` signals have arrived so far (R233). -/
  dones : Nat
  /-- The number of the next free value (R6, R48). -/
  draws : Nat
deriving DecidableEq, Repr

/-! ## The state -/

/-- The SFE's state (R20) and the agents' part. -/
structure State where
  /-- `SEQ`, the sequencer (R22). -/
  seq : Seq
  /-- `STATUS.CFG_STATE` (R25). -/
  cfgState : CfgState
  /-- `STATUS.RADIO_STATE` (R27). -/
  radioState : RadioState
  /-- `STATUS.CS_HELD` (R29). -/
  csHeld : Bool
  /-- `STATUS.ERR` (R30). -/
  err : ErrCode
  /-- `STATUS.RESULT` (R31). -/
  result : TxResult
  /-- `FI_LEN`, the last frame's length (R33). -/
  fiLen : BitVec 8
  /-- `FI_CSUM`, the last frame's checksum (R33). -/
  fiCsum : BitVec 16
  /-- `TX_PADLEN`, the last padded length (R34). -/
  txPadLen : BitVec 9
  /-- `IV_CTR`, the IV counter (R35). -/
  ivCtr : Dword
  /-- `IV_LAST`, the last derived IV block (R43). -/
  ivLast : Block
  /-- `KEY`, the live key (R44). -/
  key : Block
  /-- `CFG_KEYLEN` bits 7:0 (R37). -/
  cfgKeyLen : BitVec 8
  /-- `CFG_IVSET` bit 0 (R38). -/
  cfgIvSet : Bool
  /-- `CFG_IVSEED` (R39). -/
  cfgIvSeed : Dword
  /-- `CFG_KEYSTAGE` (R40). -/
  cfgKeyStage : Block
  /-- `CFG_POWER` (R41). -/
  cfgPower : Word
  /-- `CFG_FREQ` (R41). -/
  cfgFreq : Word
  /-- `CFG_OWNADDR` (R41). -/
  cfgOwnAddr : Word
  /-- `CFG_GWADDR` (R41). -/
  cfgGwAddr : Word
  /-- `RADIO_POWER` (R42). -/
  radioPower : Word
  /-- `RADIO_FREQ` (R42). -/
  radioFreq : Word
  /-- `RADIO_OWNADDR` (R42). -/
  radioOwnAddr : Word
  /-- `RADIO_GWADDR` (R42). -/
  radioGwAddr : Word
  /-- `FB` and `CB` (R45, R46), with R48's written bits as the list's keys. -/
  mem : Memory
  /-- What belongs to the other agents and to the model. -/
  outside : Outside
deriving DecidableEq, Repr

/-- Why the machine stops. -/
inductive Fault where
  /-- FRAME or TRANSMIT would read `FB[i]` while `FB_WRITTEN[i] = 0`. Raised by the shared frame-buffer read of both
  commands (R48: "faults in the model as 'unwritten frame byte'"). Safe: the hardware goes on with an unspecified value,
  of which the model then claims nothing. -/
  | unwrittenFrameByte (i : Nat)
deriving DecidableEq, Repr

/-- Why an instruction has no meaning here. -/
inductive Refusal where
  /-- The dispatcher's answer for a command that has no meaning yet; none is left. Safe: nothing is claimed of it. -/
  | notModelled (mnemonic : String)
deriving DecidableEq, Repr

/-! ## Reset -/

/-- The agents' part before anything has happened. -/
def Outside.start : Outside where
  inputs := []
  response := .quiet
  sends := []
  dones := 0
  draws := 0

/-- The state after reset (R50): every element at the table's value, the buffers with nothing written. -/
def State.reset : State where
  seq := .idle
  cfgState := .unconfigured
  radioState := .unknown
  csHeld := false
  err := .ok
  result := .none
  fiLen := 0
  fiCsum := 0
  txPadLen := 0
  ivCtr := 0
  ivLast := 0
  key := 0
  cfgKeyLen := 0
  cfgIvSet := false
  cfgIvSeed := 0
  cfgKeyStage := 0
  cfgPower := 0
  cfgFreq := 0
  cfgOwnAddr := 0
  cfgGwAddr := 0
  radioPower := 0
  radioFreq := 0
  radioOwnAddr := 0
  radioGwAddr := 0
  mem := []
  outside := Outside.start

end Sys2Proof.Machine
end

