-- ==== Sys2Proof/Machine/Ops.lean ====
section
/-! DEFINITION. The named operations over the buffers and the registers, and the error record every command shares
(spec/10_state.md R45 to R48, 00_scope.md R12, 60_exceptions.md R220 to R230).

The SFE takes no traps (R224): "an error is a recorded code, never a trap" (R12). `raiseErr` is that record, the one shared
operation that every error of every command goes through; there is no return from it (R225). -/

namespace Sys2Proof.Machine

/-! ## The sparse memory behind FB and CB -/

/-- What an offset that is not listed reads as: no value, since R50 leaves the buffers unspecified at reset. -/
def Memory.unlisted : Option Byte := none

/-- The byte at an offset, if it has been written since reset. -/
def Memory.get : Memory → Nat → Option Byte
  | [], _ => Memory.unlisted
  | (k, v) :: rest, a => if k = a then some v else Memory.get rest a

/-- Write one byte, keeping the offsets strictly rising. -/
def Memory.set : Memory → Nat → Byte → Memory
  | [], a, b => [(a, b)]
  | (k, v) :: rest, a, b =>
    if a < k then (a, b) :: (k, v) :: rest
    else if a = k then (a, b) :: rest
    else (k, v) :: Memory.set rest a b

/-- Write the bytes of a string at rising offsets from `a`. -/
def Memory.setBytes : Memory → Nat → List Byte → Memory
  | m, _, [] => m
  | m, a, b :: bs => Memory.setBytes (m.set a b) (a + 1) bs

/-- Every listed offset is at least `lo`, and they rise strictly. -/
def Memory.risesFrom : Nat → Memory → Bool
  | _, [] => true
  | lo, (k, _) :: rest => decide (lo ≤ k) && Memory.risesFrom (k + 1) rest

/-! ## The window's regions (20_memory.md R61) -/

/-- Where the frame buffer's region begins. -/
abbrev fbStart : Nat := 0x100
/-- Where the cipher buffer's region begins. -/
abbrev cbStart : Nat := 0x200
/-- Where the reserved upper quarter begins. -/
abbrev upperStart : Nat := 0x300

/-- The offset lies in the register region. -/
def inRegisters (off : Nat) : Bool := decide (off < fbStart)
/-- The offset lies in the frame buffer. -/
def inFb (off : Nat) : Bool := decide (fbStart ≤ off) && decide (off < cbStart)
/-- The offset lies in the cipher buffer. -/
def inCb (off : Nat) : Bool := decide (cbStart ≤ off) && decide (off < upperStart)

/-- The canonical form: strictly rising offsets, all of them in FB or CB. (An unlisted offset reads as no value, so that no
entry can equal what an unlisted offset reads as.) -/
def Memory.wf (m : Memory) : Bool :=
  Memory.risesFrom fbStart m && m.all fun c => decide (c.1 < upperStart)

/-! ## The buffers by their own indices (R45, R46, R48) -/

/-- `FB[i]`, if written since reset; beyond the buffer there is no byte. -/
def fbByte (m : Memory) (i : Nat) : Option Byte :=
  if i < Config.fbBytes then m.get (fbStart + i) else none

/-- `CB[i]`, if a TRANSMIT has written it since reset. -/
def cbByte (m : Memory) (i : Nat) : Option Byte :=
  if i < Config.cbBytes then m.get (cbStart + i) else none

/-- `FB_WRITTEN[i]` (R48). -/
def fbWritten (m : Memory) (i : Nat) : Bool := (fbByte m i).isSome

/-- The bytes `FB[i .. i+n)`, or R48's fault at the first that has not been written. -/
def readFb (m : Memory) : Nat → Nat → Except Fault (List Byte)
  | _, 0 => .ok []
  | i, n + 1 =>
    match fbByte m i with
    | none => .error (.unwrittenFrameByte i)
    | some b =>
      match readFb m (i + 1) n with
      | .error f => .error f
      | .ok bs => .ok (b :: bs)

/-- Write a string into FB from index 0; writing sets `FB_WRITTEN` (R48). -/
def writeFb (m : Memory) (bs : List Byte) : Memory := m.setBytes fbStart bs

/-- Write a string into CB from index 0 (R167). -/
def writeCb (m : Memory) (bs : List Byte) : Memory := m.setBytes cbStart bs

/-! ## The named updates of the state -/

/-- `ERR <- e`. -/
def State.setErr (s : State) (e : ErrCode) : State := { s with err := e }

/-- `CFG_STATE <- c`. -/
def State.setCfgState (s : State) (c : CfgState) : State := { s with cfgState := c }

/-- `RADIO_STATE <- r`. -/
def State.setRadioState (s : State) (r : RadioState) : State := { s with radioState := r }

/-- The bus's answer to the host. -/
def State.setResponse (s : State) (r : BusResponse) : State :=
  { s with outside := { s.outside with response := r } }

/-- The events still to come. -/
def State.setInputs (s : State) (l : List Input) : State :=
  { s with outside := { s.outside with inputs := l } }

/-- The number of the next free value. -/
def State.setDraws (s : State) (n : Nat) : State :=
  { s with outside := { s.outside with draws := n } }

/-- The buffers' contents. -/
def State.setMem (s : State) (m : Memory) : State := { s with mem := m }

/-! ## Errors (R12, R221, R230) -/

/-- `raise Err(code)` (R12): the command ends, `STATUS.ERR` holds the code, and nothing else changes. The two status
changes of R221 are made by the commands that list them. -/
def raiseErr (e : ErrCode) (s : State) : Host.Outcome State Fault Refusal := .next (s.setErr e)

/-- R90's first line, R230: while `SEQ = BUSY` a command write is rejected with ERR 10 and has no other effect. -/
def whenIdle (s : State) (act : State → Host.Outcome State Fault Refusal) : Host.Outcome State Fault Refusal :=
  match s.seq with
  | .busy => raiseErr .busy s
  | .idle => act s

/-- An illegal word (R96): ERR 10 while BUSY, else ERR 7; nothing else changes. -/
def illegalCommand (s : State) : Host.Outcome State Fault Refusal := whenIdle s (raiseErr .illegalCmd)

end Sys2Proof.Machine
end

