-- ==== Sys2Proof/Machine/Operands.lean ====
section
/-! DEFINITION. The commands' operands (spec/30_encoding.md R93; the staging registers of 10_state.md R36 to R41). -/

namespace Sys2Proof.Machine

/-- `LEN = zext(ARG)` (R93): an unsigned count 0..255. -/
abbrev lenOf (arg : Byte) : Nat := arg.toNat

/-- `OK = ARG[0]` (R93). -/
abbrev okOf (arg : Byte) : Bool := arg.getLsbD 0

/-- `sint32(v)` (00_scope.md R8): a 32-bit value as two's complement. -/
abbrev sint32 (v : Word) : Int := v.toInt

end Sys2Proof.Machine
end

