-- ==== Sys2Proof/Machine/Frame.lean ====
section
/-! DEFINITION. The frame builder: FRAME (spec/41_frame.md R140 to R151). The checksum is a plain sum (90_conflicts.md C1). -/

namespace Sys2Proof.Machine

/-- `Checksum` (R141): the sum of the bytes, each unsigned (R144), modulo 65536. -/
def checksum : List Byte → BitVec 16
  | [] => 0#16
  | b :: bs => b.setWidth 16 + checksum bs

/-- The three header bytes (R142): the length, then the checksum high byte first (20_memory.md R67). -/
def frameHeader (len : Byte) (sum : BitVec 16) : List Byte := [len, sum.extractLsb' 8 8, sum.extractLsb' 0 8]

/-- A successful FRAME's writes (R142, R143): the header over `FB[0..3)`, FRAME_INFO and ERR. -/
def State.stampFrame (s : State) (len : Byte) (sum : BitVec 16) : State :=
  { s with
    mem := writeFb s.mem (frameHeader len sum)
    fiLen := len
    fiCsum := sum
    err := .ok }

/-- FRAME (R140). Bytes 3..L-1 are read, so R48's fault can only name one of those (R146). -/
def execFrame (len : Byte) (s : State) : Host.Outcome State Fault Refusal :=
  whenIdle s fun s =>
    if lenOf len < Config.minFrameLen then raiseErr .badLen s
    else
      match readFb s.mem Config.hdrBytes (lenOf len - Config.hdrBytes) with
      | .error f => .fault f
      | .ok payload => .next (s.stampFrame len (checksum payload))

end Sys2Proof.Machine
end

