-- ==== Sys2Proof/Machine/Flags.lean ====
section
/-! DEFINITION. The status flags: the codes of R22 to R31 and R220, the derived flag LINK_PRESENT (R26), and the STATUS word
(R24). -/

namespace Sys2Proof.Machine

/-- STATUS bit 0 (R24). -/
def Seq.bit : Seq → BitVec 1
  | .idle => 0#1
  | .busy => 1#1

/-- The codes of R25. -/
def CfgState.code : CfgState → BitVec 2
  | .unconfigured => 0#2
  | .valid => 1#2
  | .invalid => 2#2

/-- The codes of R27. -/
def RadioState.code : RadioState → BitVec 2
  | .unknown => 0#2
  | .ok => 1#2
  | .failed => 2#2

/-- The codes of R31. -/
def TxResult.code : TxResult → BitVec 2
  | .none => 0#2
  | .sent => 1#2
  | .linkAbsent => 2#2
  | .inProgress => 3#2

/-- The codes of R220. -/
def ErrCode.code : ErrCode → BitVec 4
  | .ok => 0#4
  | .cfgKey => 1#4
  | .cfgIv => 2#4
  | .cfgPower => 3#4
  | .cfgFreq => 4#4
  | .cfgAddr => 5#4
  | .linkAbsent => 6#4
  | .illegalCmd => 7#4
  | .badLen => 8#4
  | .badState => 9#4
  | .busy => 10#4
  | .ivExhausted => 11#4

/-- `LINK_PRESENT = (CFG_STATE = VALID) and (RADIO_STATE = OK)` (R26): computed on every use, never stored. -/
def linkPresent (s : State) : Bool := s.cfgState == .valid && s.radioState == .ok

/-- The STATUS word (R24), from bit 31 down. -/
def statusWord (s : State) : Word :=
  0#18 ++ s.result.code ++ s.err.code ++ 0#1 ++ BitVec.ofBool s.csHeld ++ BitVec.ofBool (linkPresent s) ++
    s.radioState.code ++ s.cfgState.code ++ s.seq.bit

end Sys2Proof.Machine
end

