-- ==== Sys2Proof/Machine/Gate.lean ====
section
/-! DEFINITION. The configuration gate: CFG_LOAD and LINK_INIT (spec/40_config.md R120 to R131). -/

namespace Sys2Proof.Machine

/-! ## The checks (R121 to R125) -/

/-- Check (a), R121. -/
def keyLenOk (s : State) : Bool := s.cfgKeyLen.toNat == Config.keyBytes

/-- Check (b), R122. -/
def ivSeedOk (s : State) : Bool := s.cfgIvSet && s.cfgIvSeed != 0#64

/-- Check (c), R123. -/
def powerOk (s : State) : Bool :=
  decide (Config.powerMin ≤ sint32 s.cfgPower) && decide (sint32 s.cfgPower ≤ Config.powerMax)

/-- Check (d), R124. -/
def freqOk (s : State) : Bool := Config.freqSet.contains (sint32 s.cfgFreq)

/-- One address of check (e), R125. -/
def addrInRange (v : Word) : Bool := decide (Config.addrMin ≤ sint32 v) && decide (sint32 v ≤ Config.addrMax)

/-- Check (e), R125: both addresses. -/
def addrsOk (s : State) : Bool := addrInRange s.cfgOwnAddr && addrInRange s.cfgGwAddr

/-- `Validate()` (R120): the code of the first check that fails, in order. -/
def validate (s : State) : ErrCode :=
  if !keyLenOk s then .cfgKey
  else if !ivSeedOk s then .cfgIv
  else if !powerOk s then .cfgPower
  else if !freqOk s then .cfgFreq
  else if !addrsOk s then .cfgAddr
  else .ok

/-! ## CFG_LOAD -/

/-- R126's copies, made in one step. The staging registers keep their values. -/
def State.latchConfig (s : State) : State :=
  { s with
    key := s.cfgKeyStage
    ivCtr := s.cfgIvSeed
    radioPower := s.cfgPower
    radioFreq := s.cfgFreq
    radioOwnAddr := s.cfgOwnAddr
    radioGwAddr := s.cfgGwAddr
    cfgState := .valid
    err := .ok }

/-- CFG_LOAD (R120). -/
def execCfgLoad (s : State) : Host.Outcome State Fault Refusal :=
  whenIdle s fun s =>
    match s.cfgState with
    | .unconfigured =>
      match validate s with
      | .ok => .next s.latchConfig
      | e => raiseErr e (s.setCfgState .invalid)
    | .valid => raiseErr .badState s
    | .invalid => raiseErr .badState s

/-! ## LINK_INIT -/

/-- The result LINK_INIT records (R129). -/
def reportedState (arg : Byte) : RadioState := if okOf arg then .ok else .failed

/-- LINK_INIT (R129). -/
def execLinkInit (arg : Byte) (s : State) : Host.Outcome State Fault Refusal :=
  whenIdle s fun s =>
    match s.radioState with
    | .unknown => .next ((s.setRadioState (reportedState arg)).setErr .ok)
    | .ok => raiseErr .badState s
    | .failed => raiseErr .badState s

end Sys2Proof.Machine
end

