-- ==== Sys2Proof/Machine/Aes.lean ====
section
/-! DEFINITION. The AES-128 forward cipher (spec/43_aes128.md R190 to R201), which the spec supplies from general
knowledge (93_implementation_defined.md G1, G2; log entry 10).

The 4×4 state of R191 is held as the block itself: `S[r][c]` is byte `r + 4c`. A word (a0, a1, a2, a3) of the key schedule
is a 32-bit vector with a0 most significant, so that four of them side by side are a round key in R197's layout. -/

namespace Sys2Proof.Machine

/-! ## Field arithmetic (R192, R193) -/

/-- Multiplication by x in GF(2^8) (R192). -/
def xtime (a : Byte) : Byte := if a.getLsbD 7 then (a <<< 1) ^^^ 0x1B#8 else a <<< 1

/-- The sum, under XOR, of `xtime^k a` over every bit k set in b, for the bits from `k` up (R192). -/
def gmulFrom : Nat → Byte → Byte → Nat → Byte
  | 0, _, _, _ => 0#8
  | fuel + 1, a, b, k => (if b.getLsbD k then a else 0#8) ^^^ gmulFrom fuel (xtime a) b (k + 1)

/-- Multiplication in GF(2^8) (R192). -/
def gmul (a b : Byte) : Byte := gmulFrom 8 a b 0

/-- The rows 0x to 7x of R193's table, one block a row, column 0 first. -/
def sboxLow : List Block :=
  [0x637c777bf26b6fc53001672bfed7ab76#128, 0xca82c97dfa5947f0add4a2af9ca472c0#128,
   0xb7fd9326363ff7cc34a5e5f171d83115#128, 0x04c723c31896059a071280e2eb27b275#128,
   0x09832c1a1b6e5aa0523bd6b329e32f84#128, 0x53d100ed20fcb15b6acbbe394a4c58cf#128,
   0xd0efaafb434d338545f9027f503c9fa8#128, 0x51a3408f929d38f5bcb6da2110fff3d2#128]

/-- The rows 8x to Fx of R193's table. -/
def sboxHigh : List Block :=
  [0xcd0c13ec5f974417c4a77e3d645d1973#128, 0x60814fdc222a908846eeb814de5e0bdb#128,
   0xe0323a0a4906245cc2d3ac629195e479#128, 0xe7c8376d8dd54ea96c56f4ea657aae08#128,
   0xba78252e1ca6b4c6e8dd741f4bbd8b8a#128, 0x703eb5664803f60e613557b986c11d9e#128,
   0xe1f8981169d98e949b1e87e9ce5528df#128, 0x8ca1890dbfe6426841992d0fb054bb16#128]

/-- The S-box by its table: the row is the high hex digit of `a` and the column the low digit (R193). -/
def sbox (a : Byte) : Byte := byteOf ((sboxLow ++ sboxHigh).getD (a.toNat / 16) 0#128) (a.toNat % 16)

/-! ## Round transformations (R194 to R197) -/

/-- `SubBytes` (R194). -/
def subBytes (s : Block) : Block := blockOf fun i => sbox (byteOf s i)

/-- `ShiftRows` (R195): `S'[r][c] = S[r][(c + r) mod 4]`, with r = i mod 4 and c = i div 4. -/
def shiftRows (s : Block) : Block := blockOf fun i => byteOf s (i % 4 + 4 * ((i / 4 + i % 4) % 4))

/-- One column of `MixColumns` (R196): the new byte of row `r` from the column's four bytes. -/
def mixColumn (a0 a1 a2 a3 : Byte) : Nat → Byte
  | 0 => gmul a0 2#8 ^^^ gmul a1 3#8 ^^^ a2 ^^^ a3
  | 1 => a0 ^^^ gmul a1 2#8 ^^^ gmul a2 3#8 ^^^ a3
  | 2 => a0 ^^^ a1 ^^^ gmul a2 2#8 ^^^ gmul a3 3#8
  | _ => gmul a0 3#8 ^^^ a1 ^^^ a2 ^^^ gmul a3 2#8

/-- `MixColumns` (R196). -/
def mixColumns (s : Block) : Block := blockOf fun i =>
  mixColumn (byteOf s (4 * (i / 4))) (byteOf s (4 * (i / 4) + 1)) (byteOf s (4 * (i / 4) + 2))
    (byteOf s (4 * (i / 4) + 3)) (i % 4)

/-! ## Key expansion (R198, R199) -/

/-- `RotWord` (R198): (a0, a1, a2, a3) becomes (a1, a2, a3, a0). -/
def rotWord (w : Word) : Word := w.extractLsb' 0 24 ++ w.extractLsb' 24 8

/-- `SubWord` (R198). -/
def subWord (w : Word) : Word :=
  sbox (w.extractLsb' 24 8) ++ sbox (w.extractLsb' 16 8) ++ sbox (w.extractLsb' 8 8) ++ sbox (w.extractLsb' 0 8)

/-- `rc_i` for i in 1..10 (R198), each `xtime` of the one before. -/
def rc : Nat → Byte
  | 0 => 0#8
  | 1 => 1#8
  | i + 2 => xtime (rc (i + 1))

/-- `Rcon[i]` (R198). -/
def rcon (i : Nat) : Word := rc i ++ 0#24

/-- One pass of R199's loop: `w[i]` appended to `w[0..i)`. -/
def keyStep (w : List Word) (i : Nat) : List Word :=
  let t := w.getD (i - 1) 0#32
  let t := if i % 4 = 0 then subWord (rotWord t) ^^^ rcon (i / 4) else t
  w ++ [w.getD (i - 4) 0#32 ^^^ t]

/-- The 44 words of the key schedule (R199). -/
def keyExpansion (key : Block) : List Word :=
  (List.range' 4 40).foldl keyStep ((List.range 4).map fun i => key.extractLsb' (32 * (3 - i)) 32)

/-- Round key `rnd`: w[4rnd .. 4rnd+3] (R199), column c below row 0 first (R197). -/
def roundKey (w : List Word) (rnd : Nat) : Block :=
  w.getD (4 * rnd) 0#32 ++ w.getD (4 * rnd + 1) 0#32 ++ w.getD (4 * rnd + 2) 0#32 ++ w.getD (4 * rnd + 3) 0#32

/-- `AddRoundKey(rnd)` (R197). -/
def addRoundKey (w : List Word) (s : Block) (rnd : Nat) : Block := s ^^^ roundKey w rnd

/-! ## The cipher (R200) -/

/-- One of the rounds 1 to 9 (R200). -/
def aesRound (w : List Word) (s : Block) (rnd : Nat) : Block :=
  addRoundKey w (mixColumns (shiftRows (subBytes s))) rnd

/-- The state at the start of round `rnd + 1`: after AddRoundKey(0) and the rounds 1 to `rnd` (R200). -/
def aesRounds (w : List Word) (input : Block) (rnd : Nat) : Block :=
  (List.range' 1 rnd).foldl (aesRound w) (addRoundKey w input 0)

/-- `AES128(key, in)` (R200): ten rounds, the last without MixColumns. -/
def aes128 (key input : Block) : Block :=
  addRoundKey (keyExpansion key) (shiftRows (subBytes (aesRounds (keyExpansion key) input 9))) 10

end Sys2Proof.Machine
end

