-- ==== Sys2Proof/Machine/Transmit.lean ====
section
/-! DEFINITION. The secure transmitter: TRANSMIT's immediate part and the radio's completion step (spec/42_transmit.md R160
to R179). -/

namespace Sys2Proof.Machine

/-! ## Padding (R161, R162) -/

/-- `PadLen(L) = L + (16 - (L mod 16))` (R161). -/
def padLen (l : Nat) : Nat := l + (Config.nBlock - l % Config.nBlock)

/-- `PadFill(n)` (R162): n free bytes, from draw number `d` up. -/
def padBytes (d n : Nat) : List Byte := (List.range n).map fun k => Config.padFill (d + k)

/-! ## Counter mode (R164 to R166) -/

/-- `IVB = be64(c) || be64(c)` (R164), for the incremented counter `c`. -/
def ivBlock (c : Dword) : Block := c ++ c

/-- `CtrBlock(IVB, j) = be128((int_be(IVB) + j) mod 2^128)` (R165). -/
def ctrBlock (ivb : Block) (j : Nat) : Block := ivb + BitVec.ofNat 128 j

/-- The keystream of blocks 0 to n-1 (R166). -/
def keystream (key ivb : Block) (n : Nat) : List Byte :=
  (List.range n).flatMap fun j => blockBytes (aes128 key (ctrBlock ivb j))

/-- `C = P xor KS` (R166). -/
def encrypt (key ivb : Block) (p : List Byte) : List Byte :=
  xorBytes p (keystream key ivb (p.length / Config.nBlock))

/-! ## The outcomes of TRANSMIT -/

/-- An accepted TRANSMIT of the padded plaintext `p` (R163 to R168): the IV counter steps before the encryption, the
ciphertext goes to CB and by value to the radio, and the wait begins. -/
def State.sendPadded (s : State) (p : List Byte) : State :=
  let ctr := s.ivCtr + 1#64
  let c := encrypt s.key (ivBlock ctr) p
  { s with
    ivCtr := ctr
    mem := writeCb s.mem c
    txPadLen := BitVec.ofNat 9 p.length
    ivLast := ivBlock ctr
    csHeld := true
    seq := .busy
    result := .inProgress
    err := .ok
    outside := { s.outside with sends := s.outside.sends ++ [c] } }

/-- R173's and R170's writes of a TRANSMIT refused for the absent link, before its error is raised. -/
def State.refuseLink (s : State) : State := { s with result := .linkAbsent, csHeld := false }

/-- R174's write of a TRANSMIT refused for IV exhaustion, before its error is raised. -/
def State.releaseCs (s : State) : State := { s with csHeld := false }

/-- TRANSMIT's immediate part (R160). The padding is drawn afresh: the draw counter moves past the bytes used. -/
def execTransmit (len : Byte) (s : State) : Host.Outcome State Fault Refusal :=
  whenIdle s fun s =>
    if !linkPresent s then raiseErr .linkAbsent s.refuseLink
    else if s.ivCtr == BitVec.allOnes 64 then raiseErr .ivExhausted s.releaseCs
    else
      match readFb s.mem 0 (lenOf len) with
      | .error f => .fault f
      | .ok bytes =>
        let n := padLen (lenOf len) - lenOf len
        .next ((s.setDraws (s.outside.draws + n)).sendPadded (bytes ++ padBytes s.outside.draws n))

/-! ## The completion step (R169, R234) -/

/-- `RadioDone`: while BUSY it ends the wait (R169); while IDLE it is ignored (R234). That the signal came is counted on the
radio's side in either case (R233). -/
def radioDone (s : State) : State :=
  let s := { s with outside := { s.outside with dones := s.outside.dones + 1 } }
  match s.seq with
  | .busy => { s with seq := .idle, csHeld := false, result := .sent }
  | .idle => s

end Sys2Proof.Machine
end

