-- ==== Sys2Proof/Machine/Dispatch.lean ====
section
/-! DEFINITION. What each command does: one arm per row of spec/opcode_table.json (30_encoding.md R90). Every meaning begins
with R90's BUSY check (`whenIdle`). -/

namespace Sys2Proof.Machine

def exec (i : Instr) (s : State) : Host.Outcome State Fault Refusal :=
  match i with
  | .cfgLoad => Sys2Proof.Machine.execCfgLoad s
  | .linkInit arg => Sys2Proof.Machine.execLinkInit arg s
  | .frame len => Sys2Proof.Machine.execFrame len s
  | .transmit len => Sys2Proof.Machine.execTransmit len s

end Sys2Proof.Machine
end

