-- ==== Sys2Proof/Machine/Registers.lean ====
section
/-! DEFINITION. The register map and the effect of reading and writing each register (spec/10_state.md R23 to R44, R49, R52;
20_memory.md R65, R66). -/

namespace Sys2Proof.Machine

/-- A register of R52. The offsets the map does not list are reserved and hold no state (R49). -/
inductive Reg where
  | id
  | status
  | cmd
  | frameInfo
  | txInfo
  | ivCtrLo
  | ivCtrHi
  | ivLast (k : Fin 4)
  | cfgKeyLen
  | cfgIvSet
  | cfgIvSeedLo
  | cfgIvSeedHi
  | cfgKey (k : Fin 4)
  | cfgPower
  | cfgFreq
  | cfgOwnAddr
  | cfgGwAddr
  | radioPower
  | radioFreq
  | radioOwnAddr
  | radioGwAddr
deriving DecidableEq, Repr

/-- The first part of R52's map: identification, status, command, results, IV. -/
def regMapStatus : List (Nat × Reg) :=
  [(0x000, .id), (0x004, .status), (0x008, .cmd), (0x00C, .frameInfo), (0x010, .txInfo), (0x018, .ivCtrLo),
   (0x01C, .ivCtrHi), (0x020, .ivLast 0), (0x024, .ivLast 1), (0x028, .ivLast 2), (0x02C, .ivLast 3)]

/-- The staging registers of R52's map. -/
def regMapStaging : List (Nat × Reg) :=
  [(0x030, .cfgKeyLen), (0x034, .cfgIvSet), (0x038, .cfgIvSeedLo), (0x03C, .cfgIvSeedHi), (0x040, .cfgKey 0),
   (0x044, .cfgKey 1), (0x048, .cfgKey 2), (0x04C, .cfgKey 3), (0x050, .cfgPower), (0x054, .cfgFreq),
   (0x058, .cfgOwnAddr), (0x05C, .cfgGwAddr)]

/-- The latched radio parameters of R52's map. -/
def regMapRadio : List (Nat × Reg) :=
  [(0x060, .radioPower), (0x064, .radioFreq), (0x068, .radioOwnAddr), (0x06C, .radioGwAddr)]

/-- R52's map. -/
def regMap : List (Nat × Reg) := regMapStatus ++ regMapStaging ++ regMapRadio

/-- The register at an offset, or none where the offset is reserved (R49). -/
def regAt (off : Nat) : Option Reg := (regMap.find? fun row => row.1 == off).map (·.2)

/-- The value a register reads as. CMD and CFG_KEY0..3 are write-only and read 0 (R32, R40); reserved bits read 0. -/
def readReg (s : State) : Reg → Word
  | .id => Config.idValue
  | .status => statusWord s
  | .cmd => 0#32
  | .frameInfo => 0#8 ++ s.fiCsum ++ s.fiLen
  | .txInfo => 0#23 ++ s.txPadLen
  | .ivCtrLo => s.ivCtr.extractLsb' 0 32
  | .ivCtrHi => s.ivCtr.extractLsb' 32 32
  | .ivLast k => blockWord s.ivLast k.val
  | .cfgKeyLen => 0#24 ++ s.cfgKeyLen
  | .cfgIvSet => 0#31 ++ BitVec.ofBool s.cfgIvSet
  | .cfgIvSeedLo => s.cfgIvSeed.extractLsb' 0 32
  | .cfgIvSeedHi => s.cfgIvSeed.extractLsb' 32 32
  | .cfgKey _ => 0#32
  | .cfgPower => s.cfgPower
  | .cfgFreq => s.cfgFreq
  | .cfgOwnAddr => s.cfgOwnAddr
  | .cfgGwAddr => s.cfgGwAddr
  | .radioPower => s.radioPower
  | .radioFreq => s.radioFreq
  | .radioOwnAddr => s.radioOwnAddr
  | .radioGwAddr => s.radioGwAddr

/-- `RegRead(off)` (R65): reserved offsets read 0 (R49). -/
def regRead (s : State) (off : Nat) : Word :=
  match regAt off with
  | some r => readReg s r
  | none => 0#32

/-- The effect of writing a register, CMD apart: read-only registers ignore the write, and a read-write register with
reserved bits stores only its defined bits (R37, R38, R66). -/
def writeReg (s : State) (v : Word) : Reg → State
  | .id => s
  | .status => s
  | .cmd => s
  | .frameInfo => s
  | .txInfo => s
  | .ivCtrLo => s
  | .ivCtrHi => s
  | .ivLast _ => s
  | .cfgKeyLen => { s with cfgKeyLen := v.extractLsb' 0 8 }
  | .cfgIvSet => { s with cfgIvSet := v.getLsbD 0 }
  | .cfgIvSeedLo => { s with cfgIvSeed := s.cfgIvSeed.extractLsb' 32 32 ++ v }
  | .cfgIvSeedHi => { s with cfgIvSeed := v ++ s.cfgIvSeed.extractLsb' 0 32 }
  | .cfgKey k => { s with cfgKeyStage := setBlockWord s.cfgKeyStage k.val v }
  | .cfgPower => { s with cfgPower := v }
  | .cfgFreq => { s with cfgFreq := v }
  | .cfgOwnAddr => { s with cfgOwnAddr := v }
  | .cfgGwAddr => { s with cfgGwAddr := v }
  | .radioPower => s
  | .radioFreq => s
  | .radioOwnAddr => s
  | .radioGwAddr => s

/-- `RegWrite(off, v)` (R66): writes to reserved offsets are ignored (R49). -/
def regWrite (s : State) (off : Nat) (v : Word) : State :=
  match regAt off with
  | some r => writeReg s v r
  | none => s

end Sys2Proof.Machine
end

