-- ==== Sys2Proof/Machine/Bus.lean ====
section
/-! DEFINITION. What reaches the SFE from outside: host reads and writes of the window (spec/20_memory.md R60 to R66), the
command write (30_encoding.md R90), the radio port (60_exceptions.md R232), the radio's completion and the reset input
(70_reset_and_hazards.md R250). -/

namespace Sys2Proof.Machine

/-! ## Accesses the bus refuses (R62, R63) -/

/-- The number of bytes of an access. -/
def Width.bytes : Width → Nat
  | .w1 => 1
  | .w2 => 2
  | .w4 => 4

/-- An access the SFE takes: the register region only in aligned words (R62), the rest naturally aligned (R63). -/
def accessOk (off : Nat) (n : Width) : Bool :=
  if inRegisters off then n == .w4 && off % 4 == 0 else off % n.bytes == 0

/-- The bus answers the host; nothing else changes. -/
def respond (r : BusResponse) (s : State) : Host.Outcome State Fault Refusal := .next (s.setResponse r)

/-! ## Host reads (R65) -/

/-- The bytes at `off .. off+n` of FB, CB or the reserved quarter, with the next draw's number before and after. A buffer byte
that nothing has written since reset is a draw (R48); the reserved quarter reads 0 (R49). -/
def readLanes (m : Memory) : Nat → Nat → Nat → List Byte × Nat
  | _, 0, d => ([], d)
  | off, n + 1, d =>
    let here : Byte × Nat :=
      if inFb off || inCb off then
        match m.get off with
        | some b => (b, d)
        | none => (Config.staleByte d, d + 1)
      else (0#8, d)
    let rest := readLanes m (off + 1) n here.2
    (here.1 :: rest.1, rest.2)

/-- `MemRead` (R65). It changes nothing of the SFE; the value goes to the host. -/
def hostRead (off : BitVec 10) (n : Width) (s : State) : Host.Outcome State Fault Refusal :=
  if !accessOk off.toNat n then respond .error s
  else if inRegisters off.toNat then respond (.data (regRead s off.toNat)) s
  else
    let got := readLanes s.mem off.toNat n.bytes s.outside.draws
    respond (.data (wordOfBytes got.1)) (s.setDraws got.2)

/-! ## Commands (R90) -/

/-- `IssueCommand(w)` (R90): a legal word runs its command, an illegal one is recorded (R96); each rejects itself while
BUSY (R230). -/
def issueCommand (w : Word) (s : State) : Host.Outcome State Fault Refusal :=
  match decodeWord w with
  | .ok i => exec i s
  | .error _ => illegalCommand s

/-- The offset of CMD (R32). -/
abbrev cmdOffset : Nat := 0x008

/-! ## Host writes (R66) -/

/-- The lanes of `v` written from `off` up, `n` of them, `i` the lane of the first: FB takes its bytes, CB and the reserved
quarter ignore theirs. -/
def writeLanes (m : Memory) (v : Word) : Nat → Nat → Nat → Memory
  | _, _, 0 => m
  | off, i, n + 1 =>
    writeLanes (if inFb off then m.set off (lane v i) else m) v (off + 1) (i + 1) n

/-- The bus takes a write whose effect is done: a next state is acknowledged, a stop stays a stop. -/
def acknowledge : Host.Outcome State Fault Refusal → Host.Outcome State Fault Refusal
  | .next t => respond .ack t
  | .fault f => .fault f
  | .refused r => .refused r

/-- `MemWrite` (R66). -/
def hostWrite (off : BitVec 10) (n : Width) (v : Word) (s : State) : Host.Outcome State Fault Refusal :=
  if !accessOk off.toNat n then respond .error s
  else if off.toNat = cmdOffset then acknowledge (issueCommand v s)
  else if inRegisters off.toNat then respond .ack (regWrite s off.toNat v)
  else respond .ack (s.setMem (writeLanes s.mem v off.toNat 0 n.bytes))

/-! ## Reset and the order of events -/

/-- The reset input (R250): every element of the SFE takes its reset value; what the other agents have sent and received is
theirs and stays. -/
def resetSfe (s : State) : State := { State.reset with outside := s.outside }

/-- One event, taken as one atomic step (R70, R227). -/
def takeInput (i : Input) (s : State) : Host.Outcome State Fault Refusal :=
  match i with
  | .read off n => hostRead off n s
  | .write off n v => hostWrite off n v s
  | .radioDone => .next (radioDone s)
  | .reset => .next (resetSfe s)

/-- The next event is taken; with none to come, the SFE waits as it is (R251: it fetches nothing). -/
def takeNext (s : State) : Host.Outcome State Fault Refusal :=
  match s.outside.inputs with
  | [] => .next s
  | i :: rest => takeInput i (s.setInputs rest)

/-- The event that writes a command word to CMD (R32). -/
def commandWrite (w : Word) : Input := .write (BitVec.ofNat 10 cmdOffset) .w4 w

/-! ## The platform's bus (R6, R60) -/

/-- The window offset the SFE decodes from a bus address, if the address is in its window (R60). -/
def windowOffset (p : Config.Platform) (addr : Nat) : Option (BitVec 10) :=
  if p.sfeBase ≤ addr ∧ addr < p.sfeBase + 1024 then some (BitVec.ofNat 10 (addr - p.sfeBase)) else none

/-- `MemRead(addr, n)` (R11) as an event of the SFE; an address outside the window is no access of the SFE. -/
def memRead (p : Config.Platform) (addr : Nat) (n : Width) : Option Input :=
  (windowOffset p addr).map fun off => .read off n

/-- `MemWrite(addr, n, v)` (R11) as an event of the SFE. -/
def memWrite (p : Config.Platform) (addr : Nat) (n : Width) (v : Word) : Option Input :=
  (windowOffset p addr).map fun off => .write off n v

/-! ## The radio port (R232) -/

/-- The port's output levels. Its output event `RadioSend` is `Outside.sends`, its input event is `Input.radioDone`. -/
structure RadioPort where
  rfCs : Bool
  rfPower : Word
  rfFreq : Word
  rfOwn : Word
  rfGw : Word
deriving DecidableEq, Repr

/-- What the port's outputs show (R232). -/
def radioPort (s : State) : RadioPort where
  rfCs := s.csHeld
  rfPower := s.radioPower
  rfFreq := s.radioFreq
  rfOwn := s.radioOwnAddr
  rfGw := s.radioGwAddr

end Sys2Proof.Machine
end

