-- ==== Sys2Proof/Machine/Step.lean ====
section
/-! DEFINITION. One step of the machine, and where the host's own word is put.

The SFE has no program counter and fetches nothing (spec/10_state.md R22): what it runs next is the next event of
`outside.inputs`. A program is the host's sequence of accesses (30_encoding.md R97), placed there from outside. -/

namespace Sys2Proof.Machine

/-- One atomic step: the next event is taken. -/
def step (s : State) : Host.Outcome State Fault Refusal := takeNext s

/-- The state whose very next step writes the command word `w` to CMD, before every event already waiting. -/
def State.withFetchWord (s : State) (_nbits w : Nat) : State :=
  s.setInputs (commandWrite (BitVec.ofNat 32 w) :: s.outside.inputs)

end Sys2Proof.Machine
end

