-- ==== Sys2Proof/Machine/Script.lean ====
section
/-! DEFINITION. Host scripts: the accesses and pseudo-instructions of spec/30_encoding.md R97 and R98 as lists of events. A
script is what stands in `outside.inputs`; the SFE itself knows nothing of it. -/

namespace Sys2Proof.Machine.Script

/-! ## The accesses of R97 -/

/-- `WR32 off, v`. -/
def wr32 (off : Nat) (v : Word) : Input := .write (BitVec.ofNat 10 off) .w4 v
/-- `WR16 off, v`. -/
def wr16 (off : Nat) (v : BitVec 16) : Input := .write (BitVec.ofNat 10 off) .w2 (v.setWidth 32)
/-- `WR8 off, v`. -/
def wr8 (off : Nat) (v : Byte) : Input := .write (BitVec.ofNat 10 off) .w1 (v.setWidth 32)
/-- `RD32 off`. -/
def rd32 (off : Nat) : Input := .read (BitVec.ofNat 10 off) .w4
/-- `RD16 off`. -/
def rd16 (off : Nat) : Input := .read (BitVec.ofNat 10 off) .w2
/-- `RD8 off`. -/
def rd8 (off : Nat) : Input := .read (BitVec.ofNat 10 off) .w1
/-- `RADIO_DONE`: not a host access but the radio's completion signal. -/
def radioDone : Input := .radioDone

/-! ## The pseudo-instructions of R98 -/

/-- `CFG_LOAD`. -/
def cfgLoad : List Input := [wr32 0x008 0x00000001#32]
/-- `LINK_INIT ok`. -/
def linkInitOk : List Input := [wr32 0x008 0x00000102#32]
/-- `LINK_INIT fail`. -/
def linkInitFail : List Input := [wr32 0x008 0x00000002#32]
/-- `FRAME L`: `(L << 8) or 0x03`. -/
def frame (l : Byte) : List Input := [wr32 0x008 ((l.setWidth 32 <<< 8) ||| 0x03#32)]
/-- `TRANSMIT L`: `(L << 8) or 0x04`. -/
def transmit (l : Byte) : List Input := [wr32 0x008 ((l.setWidth 32 <<< 8) ||| 0x04#32)]

/-- `LOADKEY k0..k15`: word k is `k(4k+3), .., k(4k)` from the high byte down. -/
def loadKey (k : Block) : List Input :=
  [wr32 0x040 (blockWord k 0), wr32 0x044 (blockWord k 1), wr32 0x048 (blockWord k 2), wr32 0x04C (blockWord k 3),
   wr32 0x030 16#32]

/-- `LOADSEED s`. -/
def loadSeed (seed : Dword) : List Input :=
  [wr32 0x038 (seed.extractLsb' 0 32), wr32 0x03C (seed.extractLsb' 32 32), wr32 0x034 1#32]

/-- `LOADRADIO p, f, own, gw`. -/
def loadRadio (p f own gw : Word) : List Input := [wr32 0x050 p, wr32 0x054 f, wr32 0x058 own, wr32 0x05C gw]

/-- `PUTBUF text`, the text given by its bytes: one byte write each, from FB[i] up. -/
def putBuf : Nat → List Byte → List Input
  | _, [] => []
  | i, b :: bs => wr8 (0x100 + i) b :: putBuf (i + 1) bs

/-- One poll of `WAIT_IDLE`, and of `CHECK_ERR`: a read of STATUS. -/
def readStatus : Input := rd32 0x004

/-- `WAIT_IDLE` that polls `n` times. How often the host polls before it sees `s[0] = 0` is the run's own: the radio need
never complete (60_exceptions.md R235). -/
def waitIdle (n : Nat) : List Input := List.replicate n readStatus

/-- `WAIT_IDLE` leaves its loop on this STATUS value: `s[0] = 0`. -/
def idleSeen (status : Word) : Bool := !status.getLsbD 0

/-- What `CHECK_ERR e` asserts of the STATUS value it reads: `s[11:8] = e`. -/
def errIs (status : Word) (e : BitVec 4) : Bool := status.extractLsb' 8 4 == e

/-! ## The boot sequence and the message sequence (70_reset_and_hazards.md R253, R254) -/

/-- R253 as 95_test_vectors.md's "configured" orders it: key, seed, radio parameters, CFG_LOAD, LINK_INIT ok. -/
def boot (k : Block) (seed : Dword) (p f own gw : Word) : List Input :=
  loadKey k ++ loadSeed seed ++ loadRadio p f own gw ++ cfgLoad ++ [readStatus] ++ linkInitOk ++ [readStatus]

/-- R254 for one message: wait (`before` polls), write the payload, FRAME, TRANSMIT, read STATUS after each, and wait again
(`after` polls). -/
def message (before after : Nat) (payload : List Byte) : List Input :=
  waitIdle before ++ putBuf 0 payload ++ frame (BitVec.ofNat 8 payload.length) ++ [readStatus] ++
    transmit (BitVec.ofNat 8 payload.length) ++ [readStatus] ++ waitIdle after ++ [readStatus]

end Sys2Proof.Machine.Script
end

