-- ==== Sys2Proof/Safety.lean ====
section
/-! DEFINITION. What a good state of the SFE is, and the terms claims are stated in. -/

namespace Sys2Proof.Machine

/-! ## Good states -/

/-- The invariant every step keeps: the relations between the elements of the state that the spec's rules promise. -/
structure Inv (s : State) : Prop where
  /-- The buffers are in canonical form. -/
  memWf : s.mem.wf = true
  /-- "`CS_HELD = 1` iff `SEQ = BUSY` at every point" (R170). -/
  csHeldIffBusy : s.csHeld = true ↔ s.seq = .busy
  /-- RESULT is IN_PROGRESS exactly while a transmission waits for the radio (R31, R168, R169). -/
  inProgressIffBusy : s.result = .inProgress ↔ s.seq = .busy
  /-- A transmission has been accepted since reset exactly when TX_PADLEN is not 0 (R34), and RESULT then says so (R31). -/
  padLenIffAccepted : s.txPadLen ≠ 0 ↔ s.result = .sent ∨ s.result = .inProgress
  /-- Only an armed transmitter accepts (R173), and the gate never closes again (R130). -/
  acceptedLink : s.txPadLen ≠ 0 → linkPresent s = true
  /-- TX_PADLEN's range (R34, R161). -/
  padLenForm : s.txPadLen = 0 ∨ 16 ≤ s.txPadLen.toNat ∧ s.txPadLen.toNat ≤ 256 ∧ s.txPadLen.toNat % 16 = 0
  /-- Without a passed validation nothing is loaded (R127, R131). -/
  unarmed : s.cfgState ≠ .valid → s.key = 0 ∧ s.ivCtr = 0 ∧ s.radioPower = 0 ∧ s.radioFreq = 0 ∧
    s.radioOwnAddr = 0 ∧ s.radioGwAddr = 0
  /-- The loaded seed is not 0 (R122) and the counter never wraps (R163). -/
  ivLive : s.cfgState = .valid → s.ivCtr ≠ 0
  /-- "Only validated values ever reach the radio" (R123 to R126, D20). -/
  radioValid : s.cfgState = .valid → 5 ≤ s.radioPower.toInt ∧ s.radioPower.toInt ≤ 23 ∧
    (s.radioFreq.toInt = 433 ∨ s.radioFreq.toInt = 866 ∨ s.radioFreq.toInt = 915) ∧
    0 ≤ s.radioOwnAddr.toInt ∧ s.radioOwnAddr.toInt ≤ 254 ∧ 0 ≤ s.radioGwAddr.toInt ∧ s.radioGwAddr.toInt ≤ 254
  /-- IV_LAST is 0 before the first accepted TRANSMIT and its counter's IV block after it (R43, R164). -/
  ivLastForm : (s.txPadLen = 0 → s.ivLast = 0) ∧ (s.txPadLen ≠ 0 → s.ivLast = ivBlock s.ivCtr)
  /-- No TRANSMIT accepted: CB is as reset left it (R46, R50). -/
  cbUntouched : s.txPadLen = 0 → ∀ i, cbByte s.mem i = none
  /-- After an accepted TRANSMIT, `CB[0..PL)` is what the radio was last given (R75, R167, R168). -/
  cbIsLastSend : s.txPadLen ≠ 0 → ∃ sent, s.outside.sends.getLast? = some sent ∧
    sent.length = s.txPadLen.toNat ∧ ∀ i, i < sent.length → cbByte s.mem i = sent[i]?
  /-- FRAME_INFO is of no frame, or of one of at least 3 bytes with a sum its length can give (R33, R147). -/
  frameInfoForm : s.fiLen = 0 ∧ s.fiCsum = 0 ∨ 3 ≤ s.fiLen.toNat ∧ s.fiCsum.toNat ≤ 255 * (s.fiLen.toNat - 3)

/-! ## Terms of the claims -/

/-- The event is a write that issues a command (R32, R62). -/
def Input.isCommand : Input → Bool
  | .write off n _ => off.toNat == cmdOffset && n == .w4
  | .read _ _ => false
  | .radioDone => false
  | .reset => false

/-- The event is a host access. -/
def Input.isAccess : Input → Bool
  | .write _ _ _ => true
  | .read _ _ => true
  | .radioDone => false
  | .reset => false

/-- Every byte of `FB[a..b)` has been written since reset (R257). -/
def FbWritten (s : State) (a b : Nat) : Prop := ∀ i, a ≤ i → i < b → fbWritten s.mem i = true

/-- The value of `FB[i]`, for an index that has been written. -/
def fbValue (s : State) (i : Nat) : Byte := (fbByte s.mem i).getD 0#8

/-- `Checksum(L)` of R140 in the spec's own form: the sum over i in 3..L-1 of FB[i], modulo 65536. -/
def frameSum (s : State) (l : Nat) : Nat := ((List.range' 3 (l - 3)).map fun i => (fbValue s i).toNat).sum % 65536

/-- The value a host read returns, or none where the bus refuses the access. -/
def readValue (s : State) (off : BitVec 10) (n : Width) : Option Word :=
  match hostRead off n s with
  | .next t =>
    match t.outside.response with
    | .data v => some v
    | .quiet => none
    | .ack => none
    | .error => none
  | .fault _ => none
  | .refused _ => none

/-- The five checks of R121 to R125, in the spec's own words. -/
structure ConfigPasses (s : State) : Prop where
  /-- (a), R121. -/
  keyLen : s.cfgKeyLen = 16#8
  /-- (b), R122. -/
  seed : s.cfgIvSet = true ∧ s.cfgIvSeed ≠ 0#64
  /-- (c), R123. -/
  power : 5 ≤ s.cfgPower.toInt ∧ s.cfgPower.toInt ≤ 23
  /-- (d), R124. -/
  freq : s.cfgFreq.toInt = 433 ∨ s.cfgFreq.toInt = 866 ∨ s.cfgFreq.toInt = 915
  /-- (e), R125. -/
  addrs : (0 ≤ s.cfgOwnAddr.toInt ∧ s.cfgOwnAddr.toInt ≤ 254) ∧ 0 ≤ s.cfgGwAddr.toInt ∧ s.cfgGwAddr.toInt ≤ 254

/-- No reset among the next `n` events. -/
def NoReset (n : Nat) (s : State) : Prop := ∀ i ∈ s.outside.inputs.take n, i ≠ Input.reset

/-- The next `n` events are all host accesses: no completion and no reset among them. -/
def AccessesOnly (n : Nat) (s : State) : Prop :=
  n ≤ s.outside.inputs.length ∧ ∀ i ∈ s.outside.inputs.take n, i.isAccess = true

/-- The SFE's own elements are equal, whatever the agents have seen. -/
def SameSfe (s t : State) : Prop := t = { s with outside := t.outside }

/-- The radio keeps its one obligation (R233): at most one `RadioDone` for each `RadioSend`. The model does not enforce it. -/
def RadioWithinObligation (s : State) : Prop := s.outside.dones ≤ s.outside.sends.length

/-! ## Safe runs -/

/-- The next step does not stop (the only stop is R48's unwritten frame byte). -/
def Safe (s : State) : Prop := ∃ t, step s = .next t

/-- What a host must have done before the next event so that no step stops (R257): a FRAME or TRANSMIT it writes has every
byte it reads written. -/
def HostPrepared (s : State) (w : Word) : Prop :=
  match decodeWord w with
  | .ok (.frame len) => FbWritten s 3 len.toNat
  | .ok (.transmit len) => FbWritten s 0 len.toNat
  | .ok .cfgLoad => True
  | .ok (.linkInit _) => True
  | .error _ => True

end Sys2Proof.Machine
end

