-- ==== Sys2Proof/Certificates/Slice0/Obligations.lean ====
section
/-! DEFINITION. The statements for the provers. Each formalises rules of spec/; its docstring names them. Offsets are window
offsets, `L` is the command's LEN. "The next event" is the head of `outside.inputs`. -/

open Sys2Proof Sys2Proof.Machine

/-! ## Encoding -/

/-- R99's examples (the spec's own inference from R91 and R94): the five commands' words and the four illegal ones. -/
def Obligations.SampleWordsDecode : Prop :=
  decodeWord 0x00000001#32 = .ok .cfgLoad ∧ encode .cfgLoad = 0x00000001#32 ∧
  decodeWord 0x00000102#32 = .ok (.linkInit 1#8) ∧ encode (.linkInit 1#8) = 0x00000102#32 ∧
  decodeWord 0x00001A03#32 = .ok (.frame 26#8) ∧ encode (.frame 26#8) = 0x00001A03#32 ∧
  decodeWord 0x00001A04#32 = .ok (.transmit 26#8) ∧ encode (.transmit 26#8) = 0x00001A04#32 ∧
  decodeWord 0x0000FF04#32 = .ok (.transmit 255#8) ∧ encode (.transmit 255#8) = 0x0000FF04#32 ∧
  decodeWord 0x00010003#32 = .error .reservedBits ∧
  decodeWord 0x00000101#32 = .error (.cfgLoadArg 1#8) ∧
  decodeWord 0x00000202#32 = .error (.linkInitArg 2#8) ∧
  decodeWord 0x00000005#32 = .error (.unknownOp 5#8)

/-- Decoding an encoded well-formed command gives it back, and a word that decodes is the encoding of what it decodes to,
which is well-formed (R91, R93, R94); the same, both ways, of the four bytes in bus lane order (R64). -/
def Obligations.DecodeAndEncodeAgree : Prop :=
  (∀ i : Instr, i.wellFormed = true → decodeWord (encode i) = .ok i ∧ decodeBytes (encodeBytes i) = .ok i) ∧
  (∀ (w : Word) (i : Instr), decodeWord w = .ok i → encode i = w ∧ i.wellFormed = true) ∧
  (∀ (bs : List Byte) (i : Instr), decodeBytes bs = .ok i → bs = encodeBytes i ∧ i.wellFormed = true)

/-- R94: a word is the row's command iff `(w and mask) = match`, with R93's operand, and every OP value not listed is
illegal. -/
def Obligations.OpcodeMapDecidesTheCommand : Prop :=
  ∀ w : Word,
    (w &&& 0xFFFFFFFF#32 = 0x00000001#32 ↔ decodeWord w = .ok .cfgLoad) ∧
    (w &&& 0xFFFFFEFF#32 = 0x00000002#32 ↔ decodeWord w = .ok (.linkInit (w.extractLsb' 8 8))) ∧
    (w &&& 0xFFFF00FF#32 = 0x00000003#32 ↔ decodeWord w = .ok (.frame (w.extractLsb' 8 8))) ∧
    (w &&& 0xFFFF00FF#32 = 0x00000004#32 ↔ decodeWord w = .ok (.transmit (w.extractLsb' 8 8))) ∧
    (w.extractLsb' 0 8 = 0#8 ∨ 5#8 ≤ w.extractLsb' 0 8 → ∃ r, decodeWord w = .error r)

/-- R96: which words are illegal, and that an illegal word gets ERR 7 while IDLE and ERR 10 while BUSY and changes nothing
else. -/
def Obligations.IllegalWordsOnlyRecordAnError : Prop :=
  ∀ w : Word,
    (legal w = false ↔
      w.extractLsb' 0 8 = 0#8 ∨ 5#8 ≤ w.extractLsb' 0 8 ∨ w.extractLsb' 16 16 ≠ 0#16 ∨
      (w.extractLsb' 0 8 = 1#8 ∧ w.extractLsb' 8 8 ≠ 0#8) ∨
      (w.extractLsb' 0 8 = 2#8 ∧ w.extractLsb' 9 7 ≠ 0#7)) ∧
    (legal w = false ↔ ∃ r, decodeWord w = .error r) ∧
    (legal w = false → ∀ s : State,
      (s.seq = .idle → issueCommand w s = .next { s with err := .illegalCmd }) ∧
      (s.seq = .busy → issueCommand w s = .next { s with err := .busy })) ∧
    ErrCode.illegalCmd.code = 7#4 ∧ ErrCode.busy.code = 10#4

/-- A step whose next event writes the word of a well-formed command to CMD is `exec` of that command at the state
without the event, and the bus then acknowledges the write (R32, R70, R90); a fault of `exec` is the step's fault, and
`exec` never refuses. -/
def Obligations.StepRunsTheDecodedCommand : Prop :=
  ∀ (s : State) (w : Word) (rest : List Input) (i : Instr),
    s.outside.inputs = Input.write 0x008#10 .w4 w :: rest → decodeWord w = .ok i →
    (∀ t, exec i (s.setInputs rest) = .next t →
      step s = .next { t with outside := { t.outside with response := .ack } }) ∧
    (∀ f, exec i (s.setInputs rest) = .fault f → step s = .fault f) ∧
    (∀ r, exec i (s.setInputs rest) ≠ .refused r)

/-! ## Reset -/

/-- R50's table: every element after reset. -/
def Obligations.ResetHoldsTheSpecValues : Prop :=
  State.reset.seq = .idle ∧ State.reset.cfgState = .unconfigured ∧ State.reset.radioState = .unknown ∧
  linkPresent State.reset = false ∧ State.reset.csHeld = false ∧ State.reset.err = .ok ∧ State.reset.result = .none ∧
  State.reset.fiLen = 0#8 ∧ State.reset.fiCsum = 0#16 ∧ State.reset.txPadLen = 0#9 ∧ State.reset.ivCtr = 0#64 ∧
  State.reset.ivLast = 0#128 ∧ State.reset.key = 0#128 ∧
  State.reset.cfgKeyLen = 0#8 ∧ State.reset.cfgIvSet = false ∧ State.reset.cfgIvSeed = 0#64 ∧
  State.reset.cfgKeyStage = 0#128 ∧
  State.reset.cfgPower = 0#32 ∧ State.reset.cfgFreq = 0#32 ∧ State.reset.cfgOwnAddr = 0#32 ∧
  State.reset.cfgGwAddr = 0#32 ∧
  State.reset.radioPower = 0#32 ∧ State.reset.radioFreq = 0#32 ∧ State.reset.radioOwnAddr = 0#32 ∧
  State.reset.radioGwAddr = 0#32 ∧
  (∀ i, fbWritten State.reset.mem i = false) ∧ (∀ i, cbByte State.reset.mem i = none)

/-- What the host reads after reset (R52's reset column): ID is 0x53464501, every other aligned register word and every
word of the reserved quarter is 0. -/
def Obligations.ResetReadsFollowTheRegisterMap : Prop :=
  readValue State.reset 0x000#10 .w4 = some 0x53464501#32 ∧
  ∀ off : BitVec 10, off.toNat % 4 = 0 → off ≠ 0#10 → off.toNat < 0x100 ∨ 0x300 ≤ off.toNat →
    readValue State.reset off .w4 = some 0#32

/-- R250: the reset input sets every element of the SFE to its reset value from any state, a transmission in flight
included; a `RadioDone` that arrives later is ignored; and no event but the reset input takes a configured SFE back to
UNCONFIGURED. That the agents' logs (`outside`) survive is the model's choice (log entry 5). -/
def Obligations.ResetInputRestoresEveryElement : Prop :=
  (∀ (s : State) (rest : List Input), s.outside.inputs = .reset :: rest →
    step s = .next { State.reset with outside := { s.outside with inputs := rest } }) ∧
  (∀ (s : State) (rest : List Input), s.outside.inputs = .reset :: .radioDone :: rest →
    ∃ t u, step s = .next t ∧ step t = .next u ∧ SameSfe t u ∧ SameSfe State.reset u) ∧
  (∀ s t : State, step s = .next t → s.outside.inputs.head? ≠ some .reset → s.cfgState ≠ .unconfigured →
    t.cfgState ≠ .unconfigured)

/-! ## Registers and the bus -/

/-- R24: a read of STATUS returns the flags at their bits and 0 elsewhere, with the codes of R25, R27, R31 and R220 and
the derived LINK_PRESENT of R26; a write of STATUS is ignored. -/
def Obligations.StatusWordHoldsTheFlags : Prop :=
  (∀ s : State, ∃ v : Word,
    readValue s 0x004#10 .w4 = some v ∧
    v.getLsbD 0 = decide (s.seq = .busy) ∧
    v.extractLsb' 1 2 = s.cfgState.code ∧
    v.extractLsb' 3 2 = s.radioState.code ∧
    v.getLsbD 5 = (decide (s.cfgState = .valid) && decide (s.radioState = .ok)) ∧
    v.getLsbD 6 = s.csHeld ∧
    v.getLsbD 7 = false ∧
    v.extractLsb' 8 4 = s.err.code ∧
    v.extractLsb' 12 2 = s.result.code ∧
    v.extractLsb' 14 18 = 0#18) ∧
  (∀ (s : State) (v : Word), hostWrite 0x004#10 .w4 v s = .next (s.setResponse .ack)) ∧
  [CfgState.unconfigured, .valid, .invalid].map CfgState.code = [0#2, 1#2, 2#2] ∧
  [RadioState.unknown, .ok, .failed].map RadioState.code = [0#2, 1#2, 2#2] ∧
  [TxResult.none, .sent, .linkAbsent, .inProgress].map TxResult.code = [0#2, 1#2, 2#2, 3#2] ∧
  [ErrCode.ok, .cfgKey, .cfgIv, .cfgPower, .cfgFreq, .cfgAddr, .linkAbsent, .illegalCmd, .badLen, .badState, .busy,
    .ivExhausted].map ErrCode.code = [0#4, 1#4, 2#4, 3#4, 4#4, 5#4, 6#4, 7#4, 8#4, 9#4, 10#4, 11#4]

/-- What every register offset of R52's map reads as, in every state (R23, R24, R32 to R35, R37 to R43, R49): STATUS is the
word of `StatusWordHoldsTheFlags`, and the write-only registers and every reserved offset read 0. -/
def Obligations.RegisterReadsFollowTheMap : Prop :=
  ∀ s : State,
    readValue s 0x000#10 .w4 = some 0x53464501#32 ∧
    readValue s 0x004#10 .w4 = some (statusWord s) ∧
    readValue s 0x008#10 .w4 = some 0#32 ∧
    readValue s 0x00C#10 .w4 = some (0#8 ++ s.fiCsum ++ s.fiLen) ∧
    readValue s 0x010#10 .w4 = some (0#23 ++ s.txPadLen) ∧
    readValue s 0x014#10 .w4 = some 0#32 ∧
    readValue s 0x018#10 .w4 = some (s.ivCtr.extractLsb' 0 32) ∧
    readValue s 0x01C#10 .w4 = some (s.ivCtr.extractLsb' 32 32) ∧
    (∀ k : Fin 4, ∃ v, readValue s (BitVec.ofNat 10 (0x020 + 4 * k.val)) .w4 = some v ∧
      ∀ i, i < 4 → v.extractLsb' (8 * i) 8 = byteOf s.ivLast (4 * k.val + i)) ∧
    readValue s 0x030#10 .w4 = some (s.cfgKeyLen.setWidth 32) ∧
    readValue s 0x034#10 .w4 = some (if s.cfgIvSet = true then 1#32 else 0#32) ∧
    readValue s 0x038#10 .w4 = some (s.cfgIvSeed.extractLsb' 0 32) ∧
    readValue s 0x03C#10 .w4 = some (s.cfgIvSeed.extractLsb' 32 32) ∧
    (∀ k : Fin 4, readValue s (BitVec.ofNat 10 (0x040 + 4 * k.val)) .w4 = some 0#32) ∧
    readValue s 0x050#10 .w4 = some s.cfgPower ∧
    readValue s 0x054#10 .w4 = some s.cfgFreq ∧
    readValue s 0x058#10 .w4 = some s.cfgOwnAddr ∧
    readValue s 0x05C#10 .w4 = some s.cfgGwAddr ∧
    readValue s 0x060#10 .w4 = some s.radioPower ∧
    readValue s 0x064#10 .w4 = some s.radioFreq ∧
    readValue s 0x068#10 .w4 = some s.radioOwnAddr ∧
    readValue s 0x06C#10 .w4 = some s.radioGwAddr ∧
    (∀ off : BitVec 10, 0x070 ≤ off.toNat → off.toNat < 0x100 → off.toNat % 4 = 0 → readValue s off .w4 = some 0#32)

/-- R62, R63, R223: an access that is not an aligned word of the register region, or not naturally aligned elsewhere, gets
BusError and changes nothing, not even ERR; every other access is answered without an error (the one that stops, R48's,
apart); and no aligned access crosses a region boundary, which is the spec's own inference (R63, from R61). -/
def Obligations.BusErrorChangesNothing : Prop :=
  (∀ (s : State) (off : BitVec 10) (n : Width) (v : Word),
    (off.toNat < 0x100 ∧ (n ≠ .w4 ∨ off.toNat % 4 ≠ 0)) ∨ (0x100 ≤ off.toNat ∧ off.toNat % n.bytes ≠ 0) →
    hostRead off n s = .next { s with outside := { s.outside with response := .error } } ∧
    hostWrite off n v s = .next { s with outside := { s.outside with response := .error } }) ∧
  (∀ (s t : State) (off : BitVec 10) (n : Width) (v : Word),
    (off.toNat < 0x100 ∧ n = .w4 ∧ off.toNat % 4 = 0) ∨ (0x100 ≤ off.toNat ∧ off.toNat % n.bytes = 0) →
    (hostRead off n s = .next t → t.outside.response ≠ .error) ∧
    (hostWrite off n v s = .next t → t.outside.response ≠ .error)) ∧
  (∀ (off : BitVec 10) (n : Width), off.toNat % n.bytes = 0 →
    off.toNat / 256 = (off.toNat + n.bytes - 1) / 256)

/-- R65, and R64's lanes, which the spec gives from general knowledge: an aligned read beyond the registers answers a
value whose byte i is the buffer's byte at `off + i` where that has been written, and 0 in the reserved quarter; above
its n bytes the value is 0. (A byte nothing has written is a free value, of which nothing is said.) The SFE is
unchanged. -/
def Obligations.AlignedReadReturnsTheLanes : Prop :=
  ∀ (s : State) (off : BitVec 10) (n : Width), 0x100 ≤ off.toNat → off.toNat % n.bytes = 0 →
    ∃ (v : Word) (d : Nat),
      hostRead off n s = .next { s with outside := { s.outside with response := .data v, draws := d } } ∧
      (∀ i, i < n.bytes →
        (∀ b, off.toNat + i < 0x300 → s.mem.get (off.toNat + i) = some b → v.extractLsb' (8 * i) 8 = b) ∧
        (0x300 ≤ off.toNat + i → v.extractLsb' (8 * i) 8 = 0#8)) ∧
      (∀ i, n.bytes ≤ i → i < 4 → v.extractLsb' (8 * i) 8 = 0#8)

/-- R65 and the spec's own inference R69: "A read has no side effect on SFE state", whatever it reads; only the bus's
answer and the number of the next draw move outside the SFE. -/
def Obligations.ReadsChangeNoSfeState : Prop :=
  ∀ (s : State) (off : BitVec 10) (n : Width), ∃ (r : BusResponse) (d : Nat),
    hostRead off n s = .next { s with outside := { s.outside with response := r, draws := d } }

/-- R66, R68, and R64's lanes, which the spec gives from general knowledge: an aligned write into FB stores lane i of
the data at `off + i` and changes no other byte and nothing else of the SFE. -/
def Obligations.BufferWriteStoresTheLanes : Prop :=
  ∀ (s : State) (off : BitVec 10) (n : Width) (v : Word),
    0x100 ≤ off.toNat → off.toNat < 0x200 → off.toNat % n.bytes = 0 →
    ∃ t, hostWrite off n v s = .next t ∧
      (∀ i, i < n.bytes → fbByte t.mem (off.toNat - 0x100 + i) = some (v.extractLsb' (8 * i) 8) ∧
        fbWritten t.mem (off.toNat - 0x100 + i) = true) ∧
      (∀ a, ¬ (off.toNat ≤ a ∧ a < off.toNat + n.bytes) → t.mem.get a = s.mem.get a) ∧
      t = { s with mem := t.mem, outside := { s.outside with response := .ack } }

/-- R23, R24, R33 to R35, R42, R43, R46, R49, R66: a write to a read-only register, a reserved offset, CB or the reserved
quarter is taken and ignored. -/
def Obligations.WritesToReadOnlyPlacesAreIgnored : Prop :=
  ∀ (s : State) (off : BitVec 10) (n : Width) (v : Word),
    (n = .w4 ∧ off.toNat % 4 = 0 ∧
      (off.toNat < 0x008 ∨ (0x00C ≤ off.toNat ∧ off.toNat < 0x030) ∨ (0x060 ≤ off.toNat ∧ off.toNat < 0x100))) ∨
    (0x200 ≤ off.toNat ∧ off.toNat % n.bytes = 0) →
    hostWrite off n v s = .next { s with outside := { s.outside with response := .ack } }

/-- R36 to R41, R66: a write to a staging register stores its defined bits, at any time, and changes nothing else;
CFG_KEYk takes the lanes of the data as bytes 4k..4k+3 of the staged key. -/
def Obligations.StagingWritesAreStored : Prop :=
  ∀ (s : State) (v : Word),
    hostWrite 0x030#10 .w4 v s = .next { s.setResponse .ack with cfgKeyLen := v.extractLsb' 0 8 } ∧
    hostWrite 0x034#10 .w4 v s = .next { s.setResponse .ack with cfgIvSet := v.getLsbD 0 } ∧
    (∃ seed, hostWrite 0x038#10 .w4 v s = .next { s.setResponse .ack with cfgIvSeed := seed } ∧
      seed.extractLsb' 0 32 = v ∧ seed.extractLsb' 32 32 = s.cfgIvSeed.extractLsb' 32 32) ∧
    (∃ seed, hostWrite 0x03C#10 .w4 v s = .next { s.setResponse .ack with cfgIvSeed := seed } ∧
      seed.extractLsb' 32 32 = v ∧ seed.extractLsb' 0 32 = s.cfgIvSeed.extractLsb' 0 32) ∧
    (∀ k : Fin 4, ∃ ks, hostWrite (BitVec.ofNat 10 (0x040 + 4 * k.val)) .w4 v s =
        .next { s.setResponse .ack with cfgKeyStage := ks } ∧
      ∀ i, i < 16 → byteOf ks i =
        if i / 4 = k.val then v.extractLsb' (8 * (i % 4)) 8 else byteOf s.cfgKeyStage i) ∧
    hostWrite 0x050#10 .w4 v s = .next { s.setResponse .ack with cfgPower := v } ∧
    hostWrite 0x054#10 .w4 v s = .next { s.setResponse .ack with cfgFreq := v } ∧
    hostWrite 0x058#10 .w4 v s = .next { s.setResponse .ack with cfgOwnAddr := v } ∧
    hostWrite 0x05C#10 .w4 v s = .next { s.setResponse .ack with cfgGwAddr := v }

/-- R237, R40, R44: no host read tells anything of the live key or the staged key: two states that differ only in the keys
answer every read alike. -/
def Obligations.KeyIsNeverReadable : Prop :=
  ∀ (s : State) (k ks : Block) (off : BitVec 10) (n : Width),
    readValue { s with key := k, cfgKeyStage := ks } off n = readValue s off n

/-- R60, R6: in a window placed as R6 requires, the SFE is addressed by exactly the addresses `SFE_BASE + off` with off in
0..1023, and the offset it decodes is the low ten bits of the address. -/
def Obligations.WindowDecodesTheLowTenBits : Prop :=
  ∀ p : Config.Platform, p.wf = true → ∀ addr : Nat,
    (∀ off : BitVec 10, windowOffset p addr = some off ↔ addr = p.sfeBase + off.toNat) ∧
    (∀ off : BitVec 10, windowOffset p addr = some off → off.toNat = addr % 1024 ∧ addr < 2 ^ p.busAddrBits) ∧
    (addr < p.sfeBase ∨ p.sfeBase + 1024 ≤ addr → windowOffset p addr = none)

/-! ## BUSY -/

/-- R230: while BUSY every command write, legal or not, is rejected with ERR 10 and has no other effect. -/
def Obligations.BusyRejectsEveryCommand : Prop :=
  ∀ s : State, s.seq = .busy →
    (∀ w : Word, issueCommand w s = .next { s with err := .busy }) ∧
    (∀ i : Instr, exec i s = .next { s with err := .busy }) ∧
    (∀ w : Word, hostWrite 0x008#10 .w4 w s =
      .next { s with err := .busy, outside := { s.outside with response := .ack } }) ∧
    ErrCode.busy.code = 10#4

/-! ## CFG_LOAD and LINK_INIT -/

/-- R126: from UNCONFIGURED, when every check passes, CFG_LOAD copies the key, the seed and the four radio parameters
and sets CFG_STATE to VALID and ERR to 0; nothing else changes, the staging registers included. -/
def Obligations.CfgLoadCopiesOnSuccess : Prop :=
  ∀ s : State, s.seq = .idle → s.cfgState = .unconfigured → ConfigPasses s →
    exec .cfgLoad s = .next
      { s with
        key := s.cfgKeyStage
        ivCtr := s.cfgIvSeed
        radioPower := s.cfgPower
        radioFreq := s.cfgFreq
        radioOwnAddr := s.cfgOwnAddr
        radioGwAddr := s.cfgGwAddr
        cfgState := .valid
        err := .ok }

/-- R121 to R125, R127: from UNCONFIGURED, the first check that fails, in the order (a) to (e), gives CFG_STATE =
INVALID and its own code, 1 to 5, and nothing else changes; where none fails, CFG_LOAD passes. -/
def Obligations.CfgLoadReportsTheFirstFailure : Prop :=
  ∀ s : State, s.seq = .idle → s.cfgState = .unconfigured →
    let a := s.cfgKeyLen = 16#8
    let b := s.cfgIvSet = true ∧ s.cfgIvSeed ≠ 0#64
    let c := 5 ≤ s.cfgPower.toInt ∧ s.cfgPower.toInt ≤ 23
    let d := s.cfgFreq.toInt = 433 ∨ s.cfgFreq.toInt = 866 ∨ s.cfgFreq.toInt = 915
    let e := (0 ≤ s.cfgOwnAddr.toInt ∧ s.cfgOwnAddr.toInt ≤ 254) ∧ 0 ≤ s.cfgGwAddr.toInt ∧ s.cfgGwAddr.toInt ≤ 254
    let fails := fun code : ErrCode => exec .cfgLoad s = .next { s with cfgState := .invalid, err := code }
    (¬ a → fails .cfgKey) ∧
    (a → ¬ b → fails .cfgIv) ∧
    (a → b → ¬ c → fails .cfgPower) ∧
    (a → b → c → ¬ d → fails .cfgFreq) ∧
    (a → b → c → d → ¬ e → fails .cfgAddr) ∧
    (a → b → c → d → e → ∃ t, exec .cfgLoad s = .next t ∧ t.cfgState = .valid ∧ t.err = .ok) ∧
    [ErrCode.cfgKey, .cfgIv, .cfgPower, .cfgFreq, .cfgAddr].map ErrCode.code = [1#4, 2#4, 3#4, 4#4, 5#4]

/-- R128: a second CFG_LOAD gets BAD_STATE and changes nothing else, whatever the staging registers hold, whether the
first passed or failed; and no step but a reset makes the SFE accept one again. -/
def Obligations.CfgLoadIsAcceptedOnce : Prop :=
  (∀ s : State, s.seq = .idle → s.cfgState = .valid ∨ s.cfgState = .invalid →
    exec .cfgLoad s = .next { s with err := .badState }) ∧
  (∀ s t : State, step s = .next t → s.outside.inputs.head? ≠ some .reset →
    s.cfgState = .valid ∨ s.cfgState = .invalid → t.cfgState = s.cfgState) ∧
  ErrCode.badState.code = 9#4

/-- R129: the first LINK_INIT since reset records OK or FAILED from ARG[0] and sets ERR to 0; a later one gets BAD_STATE;
nothing else changes, and CFG_STATE is not read. The two well-formed operands are the only ones the decoder gives; a word with
a bit of ARG[7:1] set is illegal (R93, `IllegalWordsOnlyRecordAnError`). -/
def Obligations.LinkInitRecordsOnce : Prop :=
  decodeWord 0x00000102#32 = .ok (.linkInit 1#8) ∧ decodeWord 0x00000002#32 = .ok (.linkInit 0#8) ∧
  ErrCode.badState.code = 9#4 ∧
  ∀ (s : State) (arg : Byte), s.seq = .idle → (Instr.linkInit arg).wellFormed = true →
    (s.radioState = .unknown →
      exec (.linkInit arg) s =
        .next { s with radioState := if arg.getLsbD 0 = true then .ok else .failed, err := .ok }) ∧
    (s.radioState = .ok ∨ s.radioState = .failed → exec (.linkInit arg) s = .next { s with err := .badState })

/-- R25, R27, R26 and the spec's own inference R130: until reset CFG_STATE changes only from UNCONFIGURED and only by a
CFG_LOAD write, RADIO_STATE only from UNKNOWN and only by a LINK_INIT write; so once both are set LINK_PRESENT never
changes. -/
def Obligations.GateStatesHoldUntilReset : Prop :=
  ∀ s t : State, step s = .next t → s.outside.inputs.head? ≠ some .reset →
    (t.cfgState ≠ s.cfgState → s.cfgState = .unconfigured ∧
      s.outside.inputs.head? = some (.write 0x008#10 .w4 0x00000001#32)) ∧
    (t.radioState ≠ s.radioState → s.radioState = .unknown ∧
      (s.outside.inputs.head? = some (.write 0x008#10 .w4 0x00000102#32) ∨
        s.outside.inputs.head? = some (.write 0x008#10 .w4 0x00000002#32))) ∧
    (s.cfgState ≠ .unconfigured → s.radioState ≠ .unknown → linkPresent t = linkPresent s) ∧
    (linkPresent s = true → linkPresent t = true)

/-! ## FRAME -/

/-- R140 to R143: with L at least 3 and FB[3..L) written, FRAME writes L and the checksum, high byte first, over
FB[0..3) and into FRAME_INFO, and sets ERR to 0. Every other byte of memory and every other element is unchanged. -/
def Obligations.FrameStampsTheHeader : Prop :=
  ∀ (s : State) (len : Byte), s.seq = .idle → 3 ≤ len.toNat → FbWritten s 3 len.toNat →
    let sum := BitVec.ofNat 16 (frameSum s len.toNat)
    ∃ t, exec (.frame len) s = .next t ∧
      fbByte t.mem 0 = some len ∧
      fbByte t.mem 1 = some (sum.extractLsb' 8 8) ∧
      fbByte t.mem 2 = some (sum.extractLsb' 0 8) ∧
      (∀ i, i < 3 → fbWritten t.mem i = true) ∧
      t.fiLen = len ∧ t.fiCsum = sum ∧ t.err = .ok ∧
      (∀ a, ¬ (0x100 ≤ a ∧ a < 0x103) → t.mem.get a = s.mem.get a) ∧
      t = { s with mem := t.mem, fiLen := t.fiLen, fiCsum := t.fiCsum, err := t.err }

/-- R145: FRAME with L of 0, 1 or 2 gets BAD_LEN and changes nothing else. -/
def Obligations.ShortFrameIsRefused : Prop :=
  (∀ (s : State) (len : Byte), s.seq = .idle → len.toNat < 3 → exec (.frame len) s = .next { s with err := .badLen }) ∧
  ErrCode.badLen.code = 8#4

/-- R48: a FRAME that would read an unwritten byte of FB[3..L) stops with the fault that names the first such byte. -/
def Obligations.FrameOfAnUnwrittenByteFaults : Prop :=
  ∀ (s : State) (len : Byte) (i : Nat), s.seq = .idle → 3 ≤ i → i < len.toNat → fbWritten s.mem i = false →
    FbWritten s 3 i → exec (.frame len) s = .fault (.unwrittenFrameByte i)

/-- R146, the spec's own inference from R141: the checksum does not depend on FB[0..3): whatever those bytes are changed
to before FRAME, the frame's sum and length come out the same. -/
def Obligations.ChecksumIgnoresTheHeaderBytes : Prop :=
  ∀ (s t : State) (m : Memory) (len : Byte),
    (∀ i, 3 ≤ i → fbByte m i = fbByte s.mem i) → exec (.frame len) s = .next t →
    ∃ t', exec (.frame len) { s with mem := m } = .next t' ∧ t'.fiCsum = t.fiCsum ∧ t'.fiLen = t.fiLen ∧
      t'.err = t.err

/-- R147, the spec's own inference from R141 and R93: for every length the encoding can express, FRAME's 16-bit checksum is
the unreduced sum of FB[3..L), which is at most 252 * 255 = 64260, so that the reduction modulo 65536 never changes it. -/
def Obligations.FrameSumNeverWraps : Prop :=
  ∀ (s : State) (len : Byte), s.seq = .idle → 3 ≤ len.toNat → FbWritten s 3 len.toNat →
    let sum := ((List.range' 3 (len.toNat - 3)).map fun i => (fbValue s i).toNat).sum
    (∃ t, exec (.frame len) s = .next t ∧ t.fiCsum.toNat = sum) ∧ sum ≤ 252 * 255 ∧ 252 * 255 < 65536

/-- R148, the spec's own inference from R140: FRAME reads no configuration, link, IV or cipher state: from two states
with the same SEQ and the same buffers it leaves the same buffers, FRAME_INFO and ERR, and it changes none of that
state. -/
def Obligations.FrameReadsOnlyTheFrameBuffer : Prop :=
  ∀ (s s' t : State) (len : Byte), s'.seq = s.seq → (∀ i, fbByte s'.mem i = fbByte s.mem i) →
    s.seq = .idle → 3 ≤ len.toNat → exec (.frame len) s = .next t →
    ∃ t', exec (.frame len) s' = .next t' ∧ (∀ i, fbByte t'.mem i = fbByte t.mem i) ∧
      (∀ i, cbByte t'.mem i = cbByte s'.mem i) ∧ t'.fiLen = t.fiLen ∧ t'.fiCsum = t.fiCsum ∧ t'.err = t.err ∧
      t' = { s' with mem := t'.mem, fiLen := t'.fiLen, fiCsum := t'.fiCsum, err := t'.err }

/-- R150, the spec's own inference: a second FRAME of the same length leaves exactly the state the first left. (The
canonical form of the buffers is the invariant's; it makes equal contents equal data.) -/
def Obligations.RepeatedFrameIsIdempotent : Prop :=
  ∀ (s t : State) (len : Byte), s.mem.wf = true → 3 ≤ len.toNat → exec (.frame len) s = .next t →
    exec (.frame len) t = .next t

/-! ## TRANSMIT -/

/-- R161: the padded length is the next multiple of 16 strictly above the length, at most 16 above it. -/
def Obligations.PaddedLengthIsTheNextBlock : Prop :=
  (∀ l, padLen l = l + (16 - l % 16) ∧ padLen l % 16 = 0 ∧ l < padLen l ∧ padLen l ≤ l + 16) ∧
  [0, 1, 15, 16, 17, 26, 239, 240, 241, 255].map padLen = [16, 16, 16, 32, 32, 32, 240, 256, 256, 256]

/-- R160, R162 to R168: an IDLE SFE with the link present, the counter below its top and FB[0..L) written accepts
TRANSMIT. The counter steps by one; IV_LAST is its big-endian bytes twice; CB[0..PL) is the frame and PL - L padding
bytes (any bytes) XORed with the keystream blocks AES128(KEY, IVB + j); TX_PADLEN is PL; the same bytes go to the radio;
CS_HELD, SEQ, RESULT and ERR are set. Every other byte of memory and every other element is unchanged. (AES128 and the
blocks after the first rest on rules the spec gives from general knowledge: log entries 10 and 11.) -/
def Obligations.TransmitEncryptsAndHandsOver : Prop :=
  ∀ (s : State) (len : Byte), s.seq = .idle → linkPresent s = true → s.ivCtr ≠ BitVec.allOnes 64 →
    FbWritten s 0 len.toNat →
    let pl := padLen len.toNat
    ∃ (t : State) (pad sent : List Byte),
      exec (.transmit len) s = .next t ∧
      pad.length = pl - len.toNat ∧ sent.length = pl ∧
      t.ivCtr = s.ivCtr + 1#64 ∧ t.ivCtr.toNat = s.ivCtr.toNat + 1 ∧
      blockBytes t.ivLast = be64 t.ivCtr ++ be64 t.ivCtr ∧
      (∀ i, i < pl →
        sent[i]? = some
          ((if i < len.toNat then fbValue s i else pad.getD (i - len.toNat) 0#8) ^^^
            byteOf (aes128 s.key (t.ivLast + BitVec.ofNat 128 (i / 16))) (i % 16)) ∧
        cbByte t.mem i = sent[i]?) ∧
      (∀ a, ¬ (0x200 ≤ a ∧ a < 0x200 + pl) → t.mem.get a = s.mem.get a) ∧
      t.txPadLen.toNat = pl ∧ t.csHeld = true ∧ t.seq = .busy ∧ t.result = .inProgress ∧ t.err = .ok ∧
      t.outside = { s.outside with sends := s.outside.sends ++ [sent], draws := t.outside.draws } ∧
      t = { s with
        ivCtr := t.ivCtr, mem := t.mem, txPadLen := t.txPadLen, ivLast := t.ivLast, csHeld := t.csHeld, seq := t.seq,
        result := t.result, err := t.err, outside := t.outside }

/-- R173, R131: without the link TRANSMIT sets RESULT to LINK_ABSENT, CS_HELD to 0 and ERR to 6, whatever its length and
whatever the counter, and changes nothing else; FB is not read. -/
def Obligations.TransmitWithoutLinkIsRefused : Prop :=
  (∀ (s : State) (len : Byte), s.seq = .idle → linkPresent s = false →
    exec (.transmit len) s = .next { s with result := .linkAbsent, csHeld := false, err := .linkAbsent }) ∧
  ErrCode.linkAbsent.code = 6#4

/-- R174: with the link present and the counter at 2^64 - 1 TRANSMIT sets CS_HELD to 0 and ERR to 11 and changes nothing
else, RESULT included; and until reset the counter stays there with the link present, so that every later TRANSMIT gets
the same. -/
def Obligations.IvExhaustionIsRefused : Prop :=
  (∀ (s : State) (len : Byte), s.seq = .idle → linkPresent s = true → s.ivCtr = BitVec.allOnes 64 →
    exec (.transmit len) s = .next { s with csHeld := false, err := .ivExhausted }) ∧
  (∀ s t : State, linkPresent s = true → s.ivCtr = BitVec.allOnes 64 → step s = .next t →
    s.outside.inputs.head? ≠ some .reset → linkPresent t = true ∧ t.ivCtr = BitVec.allOnes 64) ∧
  ErrCode.ivExhausted.code = 11#4

/-- R48, R257: a TRANSMIT that both refusals let pass and that would read an unwritten byte of FB[0..L) stops with the
fault that names the first such byte. -/
def Obligations.TransmitOfAnUnwrittenByteFaults : Prop :=
  ∀ (s : State) (len : Byte) (i : Nat), s.seq = .idle → linkPresent s = true → s.ivCtr ≠ BitVec.allOnes 64 →
    i < len.toNat → fbWritten s.mem i = false → FbWritten s 0 i →
    exec (.transmit len) s = .fault (.unwrittenFrameByte i)

/-- R165, which the spec gives from general knowledge (log entry 11): counter block j is IVB + j modulo 2^128; block 0
is IVB; for j below 16 the low half carries into the high half exactly when the counter plus j reaches 2^64; with the
counter at 2^64 - 1 block 1 wraps to 0. -/
def Obligations.CounterBlocksCarryAcrossTheHalves : Prop :=
  (∀ (ivb : Block) (j : Nat), (ctrBlock ivb j).toNat = (ivb.toNat + j) % 2 ^ 128) ∧
  (∀ ivb : Block, ctrBlock ivb 0 = ivb) ∧
  (∀ (c : Dword) (j : Nat), j < 16 →
    (c.toNat + j < 2 ^ 64 → ctrBlock (ivBlock c) j = c ++ (c + BitVec.ofNat 64 j)) ∧
    (2 ^ 64 ≤ c.toNat + j → ctrBlock (ivBlock c) j = (c + 1#64) ++ (c + BitVec.ofNat 64 j))) ∧
  ctrBlock (ivBlock (BitVec.allOnes 64)) 1 = 0#128 ∧ ctrBlock (ivBlock (BitVec.allOnes 64)) 2 = 1#128

/-- R177, the spec's own inference from R165 and R166: of two padded plaintexts that differ only in their padding the
first L ciphertext bytes are equal, and encrypting a ciphertext again under the same key and IV block gives the
plaintext back. -/
def Obligations.CounterModeIgnoresPaddingAndInverts : Prop :=
  (∀ (key ivb : Block) (p pad pad' : List Byte), pad.length = pad'.length → (p ++ pad).length % 16 = 0 →
    (encrypt key ivb (p ++ pad)).take p.length = (encrypt key ivb (p ++ pad')).take p.length) ∧
  (∀ (key ivb : Block) (p : List Byte), p.length % 16 = 0 →
    (encrypt key ivb p).length = p.length ∧ encrypt key ivb (encrypt key ivb p) = p)

/-- R178, R149: FRAME L then TRANSMIT L from any prepared state hands the radio exactly one string; the gateway's
decryption of it under the same key and counter gives the length byte L, the checksum of the payload it carries, high
byte first, and the host's own bytes FB[3..L). (The decryption is the model's counter mode: log entries 10 and 11.) -/
def Obligations.GatewayRecoversTheFrame : Prop :=
  ∀ (s : State) (len : Byte), s.seq = .idle → 3 ≤ len.toNat → FbWritten s 3 len.toNat → linkPresent s = true →
    s.ivCtr ≠ BitVec.allOnes 64 →
    ∃ (t u : State) (sent : List Byte),
      exec (.frame len) s = .next t ∧ exec (.transmit len) t = .next u ∧
      u.outside.sends = s.outside.sends ++ [sent] ∧
      let plain := encrypt s.key (ivBlock (s.ivCtr + 1#64)) sent
      let sum := BitVec.ofNat 16 (((plain.take len.toNat).drop 3).map BitVec.toNat).sum
      plain.length = padLen len.toNat ∧
      plain[0]? = some len ∧
      plain[1]? = some (sum.extractLsb' 8 8) ∧ plain[2]? = some (sum.extractLsb' 0 8) ∧
      (∀ i, 3 ≤ i → i < len.toNat → plain[i]? = fbByte s.mem i)

/-! ## The radio -/

/-- R234, R169: `RadioDone` while BUSY ends the wait with RESULT = SENT and CS_HELD = 0 and changes nothing else; while
IDLE it is ignored. -/
def Obligations.RadioDoneEndsTheWait : Prop :=
  ∀ (s : State) (rest : List Input), s.outside.inputs = .radioDone :: rest →
    (s.seq = .busy → step s = .next
      { s with
        seq := .idle, csHeld := false, result := .sent,
        outside := { s.outside with inputs := rest, dones := s.outside.dones + 1 } }) ∧
    (s.seq = .idle → step s = .next
      { s with outside := { s.outside with inputs := rest, dones := s.outside.dones + 1 } })

/-- R235, R261: a radio that never completes. However many host accesses follow while BUSY, none of them stops the
machine or ends the wait: SEQ, CS_HELD and RESULT stay, STATUS reads BUSY, nothing more is sent, and the next command
write gets ERR 10 again. -/
def Obligations.RadioThatNeverCompletesHangs : Prop :=
  ∀ (n : Nat) (s : State), s.seq = .busy → AccessesOnly n s →
    ∃ t, Sys2Proof.core.run n s = .next t ∧ t.seq = .busy ∧ t.csHeld = s.csHeld ∧ t.result = s.result ∧
      t.outside.sends = s.outside.sends ∧ t.outside.inputs = s.outside.inputs.drop n ∧
      (statusWord t).getLsbD 0 = true ∧
      ∀ w : Word, issueCommand w t = .next { t with err := .busy }

/-- R227: a TRANSMIT write and the radio's completion together, in either order: taken first, the TRANSMIT gets BUSY and
the completion ends the wait; taken second, it is accepted with the next counter value. -/
def Obligations.SimultaneousEventsInEitherOrder : Prop :=
  ∀ (s : State) (len : Byte), s.seq = .busy → linkPresent s = true → s.ivCtr ≠ BitVec.allOnes 64 →
    FbWritten s 0 len.toNat →
    (∃ t, Sys2Proof.core.run 2 (s.setInputs [.write 0x008#10 .w4 (encode (.transmit len)), .radioDone]) = .next t ∧
      t.err = .busy ∧ t.seq = .idle ∧ t.result = .sent ∧ t.ivCtr = s.ivCtr ∧ t.outside.sends = s.outside.sends) ∧
    (∃ t sent, Sys2Proof.core.run 2 (s.setInputs [.radioDone, .write 0x008#10 .w4 (encode (.transmit len))]) = .next t ∧
      t.err = .ok ∧ t.seq = .busy ∧ t.result = .inProgress ∧ t.ivCtr = s.ivCtr + 1#64 ∧
      t.outside.sends = s.outside.sends ++ [sent])

/-! ## The whole machine -/

/-- The state after reset meets the invariant. -/
def Obligations.ResetMeetsTheInvariant : Prop := Inv State.reset

/-- Every step from a state that meets the invariant, on any event, leaves a state that meets it (R25, R27, R31, R34, R43,
R127, R163, R170, R75, R147: see `Inv`). -/
def Obligations.EveryStepKeepsTheInvariant : Prop :=
  ∀ s t : State, Inv s → step s = .next t → Inv t

/-- R163 and the spec's own inference R176: over any run with no reset from a configured SFE the IV counter grows by
exactly the number of strings handed to the radio, without wrapping. That the run starts configured is the model's
reading of R176, since CFG_LOAD loads the counter (log entry 17). -/
def Obligations.IvCounterCountsAcceptedTransmits : Prop :=
  ∀ (n : Nat) (s t : State), s.cfgState = .valid → NoReset n s → Sys2Proof.core.run n s = .next t →
    ∃ new : List (List Byte), t.outside.sends = s.outside.sends ++ new ∧
      t.ivCtr.toNat = s.ivCtr.toNat + new.length

/-- R163 and the spec's own inferences R176 and R72: the IV blocks of two accepted TRANSMITs of one run without a reset
differ. -/
def Obligations.AcceptedTransmitsNeverShareAnIvBlock : Prop :=
  ∀ (n : Nat) (s t u v : State) (len len' : Byte),
    s.seq = .idle → exec (.transmit len) s = .next t → t.seq = .busy →
    NoReset n t → Sys2Proof.core.run n t = .next u →
    u.seq = .idle → exec (.transmit len') u = .next v → v.seq = .busy →
    t.ivLast ≠ v.ivLast

/-- R22, R131: SEQ goes to BUSY only by a TRANSMIT write with the link present, and back to IDLE only by `RadioDone` or
reset. -/
def Obligations.SeqMovesOnlyByTransmitAndCompletion : Prop :=
  ∀ s t : State, step s = .next t →
    (s.seq = .idle → t.seq = .busy →
      linkPresent s = true ∧ ∃ len : Byte, s.outside.inputs.head? = some (.write 0x008#10 .w4 (encode (.transmit len)))) ∧
    (s.seq = .busy → t.seq = .idle →
      s.outside.inputs.head? = some .radioDone ∨ s.outside.inputs.head? = some .reset)

/-- R30: ERR changes only at a command write and at reset; a buffer or register write, any read, a bus error and the
radio's completion leave it. -/
def Obligations.ErrIsWrittenOnlyByCommands : Prop :=
  ∀ s t : State, step s = .next t → t.err ≠ s.err →
    s.outside.inputs.head? = some .reset ∨ ∃ w : Word, s.outside.inputs.head? = some (.write 0x008#10 .w4 w)

/-- R44, R42, R126: the live key and the latched radio parameters change, resets apart, only at the one CFG_LOAD write
that takes the SFE from UNCONFIGURED to VALID. -/
def Obligations.KeyAndRadioParametersComeOnlyFromCfgLoad : Prop :=
  ∀ s t : State, step s = .next t → s.outside.inputs.head? ≠ some .reset →
    t.key ≠ s.key ∨ radioPort { t with csHeld := s.csHeld } ≠ radioPort s →
    s.outside.inputs.head? = some (.write 0x008#10 .w4 0x00000001#32) ∧ s.cfgState = .unconfigured ∧
      t.cfgState = .valid

/-- R46 and the spec's own inferences R260 and R75: until reset the cipher buffer changes only with a string handed to
the radio, and then its first bytes are that string and the others stay. -/
def Obligations.CipherBufferFollowsTheSends : Prop :=
  ∀ s t : State, step s = .next t → s.outside.inputs.head? ≠ some .reset →
    (t.outside.sends = s.outside.sends ∧ ∀ i, cbByte t.mem i = cbByte s.mem i) ∨
    (∃ sent, t.outside.sends = s.outside.sends ++ [sent] ∧
      ∀ i, i < 256 → cbByte t.mem i = if i < sent.length then sent[i]? else cbByte s.mem i)

/-- Only R48's fault stops the machine: no step refuses, and a step whose event is no command write, or one whose FRAME or
TRANSMIT has every byte it reads written (R257), answers a next state. -/
def Obligations.OnlyUnwrittenBytesStopTheMachine : Prop :=
  (∀ (s : State) (r : Refusal), step s ≠ .refused r) ∧
  (∀ s : State, (∀ i, s.outside.inputs.head? = some i → i.isCommand = false) → Safe s) ∧
  (∀ (s : State) (w : Word), s.outside.inputs.head? = some (.write 0x008#10 .w4 w) → HostPrepared s w → Safe s)

/-- With no event to come the SFE stays as it is (the model's choice for R251's "it fetches nothing"; log entry 4). -/
def Obligations.MachineWaitsWithoutAnEvent : Prop :=
  ∀ s : State, s.outside.inputs = [] → step s = .next s

/-! ## AES-128

The spec gives all of 43_aes128.md from general knowledge of FIPS-197 (log entry 10). -/

/-- R200's example, the standard's C.1, with R199's: the A.1 schedule (95_test_vectors.md T-AES-1, T-AES-2). -/
def Obligations.AesGivesTheStandardsExample : Prop :=
  aes128 0x000102030405060708090a0b0c0d0e0f#128 0x00112233445566778899aabbccddeeff#128 =
    0x69c4e0d86a7b0430d8cdb78070b4c55a#128 ∧
  (keyExpansion 0x2b7e151628aed2a6abf7158809cf4f3c#128).length = 44 ∧
  (keyExpansion 0x2b7e151628aed2a6abf7158809cf4f3c#128).getD 4 0#32 = 0xa0fafe17#32 ∧
  roundKey (keyExpansion 0x2b7e151628aed2a6abf7158809cf4f3c#128) 10 = 0xd014f9a8c9ee2589e13f0cc8b6630ca6#128

/-- R194 to R197: SubBytes, ShiftRows and MixColumns on the state whose `S[r][c]` is byte `r + 4c` (R191), with R192's
products by 2 and 3 in MixColumns, and AddRoundKey as the XOR with row r of word `4 rnd + c`. -/
def Obligations.RoundTransformsFollowTheirRules : Prop :=
  ∀ (st : Block) (r c : Nat), r < 4 → c < 4 →
    byteOf (subBytes st) (r + 4 * c) = sbox (byteOf st (r + 4 * c)) ∧
    byteOf (shiftRows st) (r + 4 * c) = byteOf st (r + 4 * ((c + r) % 4)) ∧
    (let a := fun i => byteOf st ((r + i) % 4 + 4 * c)
     byteOf (mixColumns st) (r + 4 * c) = xtime (a 0) ^^^ (xtime (a 1) ^^^ a 1) ^^^ a 2 ^^^ a 3) ∧
    (∀ (w : List Word) (rnd : Nat), byteOf (addRoundKey w st rnd) (r + 4 * c) =
      byteOf st (r + 4 * c) ^^^ (w.getD (4 * rnd + c) 0#32).extractLsb' (8 * (3 - r)) 8)

/-- R193: the table is the algebraic definition: for every byte there is an inverse in GF(2^8) (0 for 0), and the S-box
is the affine image of it. -/
def Obligations.SboxIsTheAffineInverse : Prop :=
  ∀ a : Byte, ∃ b : Byte, (if a = 0#8 then b = 0#8 else gmul a b = 1#8) ∧
    sbox a = b ^^^ b.rotateLeft 1 ^^^ b.rotateLeft 2 ^^^ b.rotateLeft 3 ^^^ b.rotateLeft 4 ^^^ 0x63#8

/-- R198, byte by byte: RotWord, SubWord and the ten Rcon; and R199: every word of the schedule beyond the first four is the
word four before it XORed with its predecessor, which every fourth time is rotated, substituted and XORed with Rcon; the first
four are the key. -/
def Obligations.KeyScheduleFollowsItsRecurrence : Prop :=
  (∀ a0 a1 a2 a3 : Byte,
    rotWord (a0 ++ a1 ++ a2 ++ a3) = a1 ++ a2 ++ a3 ++ a0 ∧
    subWord (a0 ++ a1 ++ a2 ++ a3) = sbox a0 ++ sbox a1 ++ sbox a2 ++ sbox a3) ∧
  (List.range' 1 10).map rcon =
    [0x01000000#32, 0x02000000#32, 0x04000000#32, 0x08000000#32, 0x10000000#32, 0x20000000#32, 0x40000000#32,
      0x80000000#32, 0x1B000000#32, 0x36000000#32] ∧
  ∀ key : Block,
    let w := fun i => (keyExpansion key).getD i 0#32
    (keyExpansion key).length = 44 ∧ w 0 ++ w 1 ++ w 2 ++ w 3 = key ∧
    ∀ i, 4 ≤ i → i < 44 →
      w i = w (i - 4) ^^^ (if i % 4 = 0 then subWord (rotWord (w (i - 1))) ^^^ rcon (i / 4) else w (i - 1))
end

