-- ==== Sys2Proof/Laws/Bytes.lean ====
section
/-! SUPPORT. Bytes of words, blocks and command words: what each packing gives back. -/

namespace Sys2Proof

/-! ## Command words (R91) -/

/-- A word is its three fields. -/
theorem word_eq_fields (w : Word) : w = rsvField w ++ argField w ++ opField w := by
  apply BitVec.eq_of_getLsbD_eq; intro i hi
  simp only [rsvField, argField, opField, BitVec.getLsbD_append, BitVec.getLsbD_extractLsb']
  by_cases h1 : i < 8
  · simp [h1]
  · by_cases h2 : i < 16
    · have h3 : i - 8 < 8 := by omega
      have e : 8 + (i - 8) = i := by omega
      simp [h1, h3, e]
    · have e : 16 + (i - 8 - 8) = i := by omega
      have h3 : ¬ (i - 8 < 8) := by omega
      have h4 : i - 8 - 8 < 16 := by omega
      simp [h1, h3, h4, e]

namespace Machine

/-! ## Bus lanes (R64) -/

theorem lane_wordOfBytes_cons (b : Byte) (bs : List Byte) (i : Nat) (h : i < 4) :
    lane (wordOfBytes (b :: bs)) i = if i = 0 then b else lane (wordOfBytes bs) (i - 1) := by
  simp only [lane, wordOfBytes]
  apply BitVec.eq_of_getLsbD_eq; intro j hj
  rw [BitVec.getLsbD_extractLsb', BitVec.getLsbD_or, BitVec.getLsbD_shiftLeft, BitVec.getLsbD_setWidth]
  split
  · subst i; have h8 : j < 32 := by omega
    simp [hj, h8]
  · have h1 : 8 * i + j < 32 := by omega
    have h2 : ¬ (8 * i + j < 8) := by omega
    have h3 : b.getLsbD (8 * i + j) = false := BitVec.getLsbD_of_ge _ _ (by omega)
    have h4 : 8 * i + j - 8 = 8 * (i - 1) + j := by omega
    rw [BitVec.getLsbD_extractLsb']
    simp [hj, h1, h2, h3, h4]

/-- Lane i of a packed word is byte i of the list, and 0 beyond it. -/
theorem lane_wordOfBytes (bs : List Byte) (i : Nat) (h : i < 4) : lane (wordOfBytes bs) i = bs.getD i 0#8 := by
  induction bs generalizing i with
  | nil => simp [wordOfBytes, lane]
  | cons b bs ih =>
    rw [lane_wordOfBytes_cons b bs i h]
    cases i with
    | zero => rfl
    | succ i => simp [ih i (by omega), List.getD]

theorem readLanes_length (m : Memory) (off n d : Nat) : (readLanes m off n d).1.length = n := by
  induction n generalizing off d with
  | zero => rfl
  | succ n ih => simp [readLanes, ih]

/-- Byte i of a host read: the buffer's byte where it has been written, 0 outside both buffers (R65). -/
theorem readLanes_getElem? (m : Memory) (off n d i : Nat) (h : i < n) :
    (∀ b, (inFb (off + i) || inCb (off + i)) = true → m.get (off + i) = some b →
      (readLanes m off n d).1[i]? = some b) ∧
    ((inFb (off + i) || inCb (off + i)) = false → (readLanes m off n d).1[i]? = some 0#8) := by
  induction n generalizing off d i with
  | zero => omega
  | succ n ih =>
    cases i with
    | zero =>
      simp only [Nat.add_zero]
      exact ⟨fun b h1 h2 => by simp only [readLanes, h1, h2]; rfl, fun h1 => by simp only [readLanes, h1]; rfl⟩
    | succ i =>
      have e : off + (i + 1) = off + 1 + i := by omega
      rw [e]
      exact ih _ _ _ (by omega)

/-! ## Blocks (R9) -/

/-- The fold of `blockOfBytes`, bit by bit: the last byte is the least significant one. -/
theorem getLsbD_foldl_bytes (l : List Byte) : ∀ (acc : Block) (j : Nat), j < 128 →
    (l.foldl (fun (acc : Block) (b : Byte) => (acc <<< 8) ||| b.setWidth 128) acc).getLsbD j =
      if j < 8 * l.length then (l.getD (l.length - 1 - j / 8) 0#8).getLsbD (j % 8)
      else acc.getLsbD (j - 8 * l.length) := by
  induction l using List.reverseRecOn with
  | nil => intro acc j hj; simp
  | append_singleton l b ih =>
    intro acc j hj
    rw [List.foldl_append]
    simp only [List.foldl_cons, List.foldl_nil, BitVec.getLsbD_or, BitVec.getLsbD_shiftLeft,
      BitVec.getLsbD_setWidth, hj, decide_true, Bool.true_and]
    by_cases h8 : j < 8
    · have h0 : j / 8 = 0 := by omega
      have e : j % 8 = j := by omega
      have h9 : j < 8 * (l ++ [b]).length := by simp; omega
      rw [if_pos h9]
      simp [h8, h0, e, List.getD]
    · rw [ih acc (j - 8) (by omega)]
      have hb : b.getLsbD j = false := BitVec.getLsbD_of_ge _ _ (by omega)
      simp only [h8, hb, decide_false, Bool.not_false, Bool.true_and, Bool.or_false, List.length_append,
        List.length_singleton]
      have e : (j - 8 < 8 * l.length) ↔ j < 8 * (l.length + 1) := by omega
      simp only [e]
      split
      · have h1 : (j - 8) % 8 = j % 8 := by omega
        have h2 : l.length + 1 - 1 - j / 8 = l.length - 1 - (j - 8) / 8 := by omega
        have h3 : l.length - 1 - (j - 8) / 8 < l.length := by omega
        rw [h1, h2, List.getD, List.getD, List.getElem?_append_left h3]
      · congr 1; omega

theorem byteOf_blockOfBytes (l : List Byte) (hl : l.length = 16) (i : Nat) (hi : i < 16) :
    byteOf (blockOfBytes l) i = l.getD i 0#8 := by
  apply BitVec.eq_of_getLsbD_eq; intro j hj
  rw [byteOf, BitVec.getLsbD_extractLsb', blockOfBytes, getLsbD_foldl_bytes _ _ _ (by omega), if_pos (by omega)]
  have h1 : l.length - 1 - (8 * (15 - i) + j) / 8 = i := by omega
  have h2 : (8 * (15 - i) + j) % 8 = j := by omega
  simp [hj, h1, h2]

/-- Byte i of a block built byte by byte. -/
theorem byteOf_blockOf (f : Nat → Byte) (i : Nat) (hi : i < 16) : byteOf (blockOf f) i = f i := by
  rw [blockOf, byteOf_blockOfBytes _ (by simp) i hi, List.getD, List.getElem?_map, List.getElem?_range hi]; rfl

end Machine

end Sys2Proof
end

