-- ==== Sys2Proof/Laws/Memory.lean ====
section
/-! SUPPORT. What the sparse memory answers after each write, that every write keeps its canonical form, and that two
canonical memories with equal contents are equal. -/

namespace Sys2Proof.Machine

namespace Memory

theorem get_set (m : Memory) (a c : Nat) (b : Byte) :
    (Memory.set m a b).get c = if c = a then some b else m.get c := by
  induction m with
  | nil =>
    by_cases h : c = a
    · simp [set, get, h]
    · have h' : ¬ a = c := fun e => h e.symm
      simp [set, get, h, h']
  | cons x rest ih =>
    obtain ⟨k, v⟩ := x
    simp only [set]
    split
    · simp only [get]; split <;> split <;> first | rfl | omega | (split <;> first | rfl | omega)
    · split
      · subst_vars; simp only [get]; split <;> split <;> first | rfl | omega
      · simp only [get, ih]; split <;> split <;> first | rfl | omega

@[simp] theorem get_set_same (m : Memory) (a : Nat) (b : Byte) : (Memory.set m a b).get a = some b := by
  simp [get_set]

theorem get_set_other (m : Memory) {a c : Nat} (b : Byte) (h : c ≠ a) : (Memory.set m a b).get c = m.get c := by
  simp [get_set, h]

theorem get_setBytes (m : Memory) (a c : Nat) (bs : List Byte) :
    (Memory.setBytes m a bs).get c = if a ≤ c ∧ c < a + bs.length then bs[c - a]? else m.get c := by
  induction bs generalizing m a with
  | nil => simp only [setBytes, List.length_nil]; rw [if_neg (by omega)]
  | cons b bs ih =>
    simp only [setBytes, ih, get_set, List.length_cons]
    by_cases h1 : c = a
    · subst h1; simp
    · by_cases h2 : a + 1 ≤ c ∧ c < a + 1 + bs.length
      · have : c - a = (c - (a + 1)) + 1 := by omega
        rw [if_pos h2, if_pos (by omega), this, List.getElem?_cons_succ]
      · rw [if_neg h2, if_neg h1, if_neg (by omega)]

/-! ## The canonical form -/

theorem risesFrom_mono {lo lo' : Nat} (m : Memory) (h : lo' ≤ lo) (hm : risesFrom lo m = true) :
    risesFrom lo' m = true := by
  cases m with
  | nil => rfl
  | cons x rest =>
    simp only [risesFrom, Bool.and_eq_true, decide_eq_true_eq] at hm ⊢
    exact ⟨by omega, hm.2⟩

theorem risesFrom_set {lo : Nat} (m : Memory) (a : Nat) (b : Byte) (hm : risesFrom lo m = true) (ha : lo ≤ a) :
    risesFrom lo (Memory.set m a b) = true := by
  induction m generalizing lo with
  | nil => simp [set, risesFrom, ha]
  | cons x rest ih =>
    obtain ⟨k, v⟩ := x
    simp only [risesFrom, Bool.and_eq_true, decide_eq_true_eq] at hm
    simp only [set]
    split
    · simp only [risesFrom, Bool.and_eq_true, decide_eq_true_eq]; exact ⟨ha, by omega, hm.2⟩
    · split
      · subst_vars; simp only [risesFrom, Bool.and_eq_true, decide_eq_true_eq]; exact ⟨ha, hm.2⟩
      · simp only [risesFrom, Bool.and_eq_true, decide_eq_true_eq]; exact ⟨hm.1, ih hm.2 (by omega)⟩

theorem all_set (m : Memory) (p : Host.Cell → Bool) (a : Nat) (b : Byte) (hm : m.all p = true)
    (hp : p (a, b) = true) : (Memory.set m a b).all p = true := by
  induction m with
  | nil => simp [set, hp]
  | cons x rest ih =>
    obtain ⟨k, v⟩ := x
    simp only [List.all_cons, Bool.and_eq_true] at hm
    simp only [set]
    split
    · simp [hp, hm]
    · split
      · simp [hp, hm]
      · simp [hm.1, ih hm.2]

theorem wf_nil : Memory.wf [] = true := rfl

theorem wf_set (m : Memory) (a : Nat) (b : Byte) (hm : m.wf = true) (ha : fbStart ≤ a) (ha' : a < upperStart) :
    (Memory.set m a b).wf = true := by
  simp only [wf, Bool.and_eq_true] at hm ⊢
  exact ⟨risesFrom_set m a b hm.1 ha, all_set m _ a b hm.2 (by simpa using ha')⟩

theorem wf_setBytes (m : Memory) (a : Nat) (bs : List Byte) (hm : m.wf = true) (ha : fbStart ≤ a)
    (ha' : a + bs.length ≤ upperStart) : (Memory.setBytes m a bs).wf = true := by
  induction bs generalizing m a with
  | nil => exact hm
  | cons b bs ih =>
    simp only [List.length_cons] at ha'
    exact ih _ _ (wf_set m a b hm ha (by omega)) (by omega) (by omega)

theorem get_of_lt {lo : Nat} (m : Memory) {a : Nat} (hm : risesFrom lo m = true) (ha : a < lo) : m.get a = none := by
  induction m generalizing lo with
  | nil => rfl
  | cons x rest ih =>
    obtain ⟨k, v⟩ := x
    simp only [risesFrom, Bool.and_eq_true, decide_eq_true_eq] at hm
    simp only [get]
    rw [if_neg (by omega)]
    exact ih hm.2 (by omega)

/-- Canonical memories with equal contents are equal data. -/
theorem ext_of_risesFrom {lo : Nat} (m m' : Memory) (hm : risesFrom lo m = true) (hm' : risesFrom lo m' = true)
    (h : ∀ a, m.get a = m'.get a) : m = m' := by
  induction m generalizing lo m' with
  | nil =>
    cases m' with
    | nil => rfl
    | cons y rest' => have := h y.1; simp [get, unlisted] at this
  | cons x rest ih =>
    obtain ⟨k, v⟩ := x
    cases m' with
    | nil => have := h k; simp [get, unlisted] at this
    | cons y rest' =>
      obtain ⟨k', v'⟩ := y
      simp only [risesFrom, Bool.and_eq_true, decide_eq_true_eq] at hm hm'
      have hk : k = k' := by
        have h1 := h k
        have h2 := h k'
        simp only [get, if_true] at h1 h2
        by_contra hne
        rw [if_neg (fun h => hne h.symm)] at h1
        rw [if_neg hne] at h2
        rcases Nat.lt_or_gt_of_ne hne with hlt | hgt
        · rw [get_of_lt rest' hm'.2 (by omega)] at h1; cases h1
        · rw [get_of_lt rest hm.2 (by omega)] at h2; cases h2
      subst hk
      have hv := h k
      simp only [get, if_true, Option.some.injEq] at hv
      subst hv
      have hr : rest = rest' := by
        refine ih rest' hm.2 hm'.2 fun a => ?_
        have ha := h a
        simp only [get] at ha
        by_cases hka : k = a
        · subst hka; rw [get_of_lt rest hm.2 (by omega), get_of_lt rest' hm'.2 (by omega)]
        · rwa [if_neg hka, if_neg hka] at ha
      rw [hr]

theorem ext_of_wf (m m' : Memory) (hm : m.wf = true) (hm' : m'.wf = true) (h : ∀ a, m.get a = m'.get a) : m = m' := by
  simp only [wf, Bool.and_eq_true] at hm hm'
  exact ext_of_risesFrom m m' hm.1 hm'.1 h

end Memory

/-! ## The regions (R61) -/

@[simp] theorem inRegisters_iff {off : Nat} : inRegisters off = true ↔ off < 0x100 := by simp [inRegisters]

@[simp] theorem inFb_iff {off : Nat} : inFb off = true ↔ 0x100 ≤ off ∧ off < 0x200 := by simp [inFb]

@[simp] theorem inCb_iff {off : Nat} : inCb off = true ↔ 0x200 ≤ off ∧ off < 0x300 := by simp [inCb]

/-- The accesses the bus takes, in the words of R62 and R63. -/
theorem accessOk_iff {off : Nat} {n : Width} :
    accessOk off n = true ↔ (off < 0x100 ∧ n = .w4 ∧ off % 4 = 0) ∨ (0x100 ≤ off ∧ off % n.bytes = 0) := by
  by_cases h : off < 0x100
  · simp [accessOk, inRegisters_iff.2 h, h]
  · have : inRegisters off = false := Bool.eq_false_iff.2 fun e => h (inRegisters_iff.1 e)
    simp [accessOk, this, h, Nat.le_of_not_lt h]

/-! ## The two buffers -/

theorem fbByte_writeCb (m : Memory) (bs : List Byte) (i : Nat) : fbByte (writeCb m bs) i = fbByte m i := by
  simp only [fbByte, writeCb, Memory.get_setBytes, Config.fbBytes, cbStart, fbStart]
  refine if_ctx_congr Iff.rfl (fun hi => ?_) fun _ => rfl
  rw [if_neg (by omega)]

theorem cbByte_writeFb (m : Memory) (bs : List Byte) (h : bs.length ≤ 256) (i : Nat) :
    cbByte (writeFb m bs) i = cbByte m i := by
  simp only [cbByte, writeFb, Memory.get_setBytes, Config.cbBytes, cbStart, fbStart]
  refine if_ctx_congr Iff.rfl (fun hi => ?_) fun _ => rfl
  rw [if_neg (by omega)]

theorem fbByte_writeFb (m : Memory) (bs : List Byte) (i : Nat) (h : bs.length ≤ 256) :
    fbByte (writeFb m bs) i = if i < bs.length then bs[i]? else fbByte m i := by
  simp only [fbByte, writeFb, Memory.get_setBytes, Config.fbBytes, fbStart]
  by_cases h1 : i < bs.length
  · rw [if_pos (by omega), if_pos (by omega), if_pos h1, Nat.add_sub_cancel_left]
  · rw [if_neg h1]
    refine if_ctx_congr Iff.rfl (fun hi => ?_) fun _ => rfl
    rw [if_neg (by omega)]

theorem cbByte_writeCb (m : Memory) (bs : List Byte) (i : Nat) (h : bs.length ≤ 256) :
    cbByte (writeCb m bs) i = if i < bs.length then bs[i]? else cbByte m i := by
  simp only [cbByte, writeCb, Memory.get_setBytes, Config.cbBytes, cbStart]
  by_cases h1 : i < bs.length
  · rw [if_pos (by omega), if_pos (by omega), if_pos h1, Nat.add_sub_cancel_left]
  · rw [if_neg h1]
    refine if_ctx_congr Iff.rfl (fun hi => ?_) fun _ => rfl
    rw [if_neg (by omega)]

theorem get_writeFb (m : Memory) (bs : List Byte) (a : Nat) :
    (writeFb m bs).get a = if 0x100 ≤ a ∧ a < 0x100 + bs.length then bs[a - 0x100]? else m.get a :=
  Memory.get_setBytes m 0x100 a bs

theorem get_writeCb (m : Memory) (bs : List Byte) (a : Nat) :
    (writeCb m bs).get a = if 0x200 ≤ a ∧ a < 0x200 + bs.length then bs[a - 0x200]? else m.get a :=
  Memory.get_setBytes m 0x200 a bs

theorem wf_writeFb (m : Memory) (bs : List Byte) (hm : m.wf = true) (h : bs.length ≤ 256) :
    (writeFb m bs).wf = true :=
  Memory.wf_setBytes m 0x100 bs hm (by decide) (by simp only [upperStart]; omega)

theorem wf_writeCb (m : Memory) (bs : List Byte) (hm : m.wf = true) (h : bs.length ≤ 256) :
    (writeCb m bs).wf = true :=
  Memory.wf_setBytes m 0x200 bs hm (by decide) (by simp only [upperStart]; omega)

/-! ## The host's lanes -/

theorem get_writeLanes (m : Memory) (v : Word) (off i n a : Nat) :
    (writeLanes m v off i n).get a =
      if (off ≤ a ∧ a < off + n) ∧ inFb a = true then some (lane v (i + (a - off))) else m.get a := by
  induction n generalizing m off i with
  | zero => simp only [writeLanes]; rw [if_neg (by omega)]
  | succ n ih =>
    simp only [writeLanes, ih]
    by_cases h1 : (off + 1 ≤ a ∧ a < off + 1 + n) ∧ inFb a = true
    · rw [if_pos h1, if_pos ⟨by omega, h1.2⟩]
      congr 2; omega
    · rw [if_neg h1]
      by_cases h2 : a = off
      · subst h2
        by_cases h3 : inFb a = true
        · rw [if_pos h3, if_pos ⟨by omega, h3⟩]; simp
        · rw [if_neg h3, if_neg (fun h => h3 h.2)]
      · have h3 : ¬ ((off ≤ a ∧ a < off + (n + 1)) ∧ inFb a = true) :=
          fun h => h1 ⟨⟨by have := h.1.1; omega, by have := h.1.2; omega⟩, h.2⟩
        rw [if_neg h3]
        split
        · exact Memory.get_set_other m _ h2
        · rfl

theorem wf_writeLanes (m : Memory) (v : Word) (off i n : Nat) (hm : m.wf = true) :
    (writeLanes m v off i n).wf = true := by
  induction n generalizing m off i with
  | zero => exact hm
  | succ n ih =>
    simp only [writeLanes]
    refine ih _ _ _ ?_
    split
    · rename_i h
      simp only [inFb, Bool.and_eq_true, decide_eq_true_eq] at h
      exact Memory.wf_set m _ _ hm h.1 (Nat.lt_trans h.2 (by decide))
    · exact hm

end Sys2Proof.Machine
end

