-- ==== Sys2Proof/Laws/State.lean ====
section
/-! SUPPORT. One lemma for each field under each named update of the state, true by rfl: no later proof unfolds a record
update. -/

namespace Sys2Proof.Machine.State

variable (s : State)

/-! ## `setErr` -/

@[simp] theorem setErr_seq (e : ErrCode) : (s.setErr e).seq = s.seq := rfl
@[simp] theorem setErr_cfgState (e : ErrCode) : (s.setErr e).cfgState = s.cfgState := rfl
@[simp] theorem setErr_radioState (e : ErrCode) : (s.setErr e).radioState = s.radioState := rfl
@[simp] theorem setErr_csHeld (e : ErrCode) : (s.setErr e).csHeld = s.csHeld := rfl
@[simp] theorem setErr_err (e : ErrCode) : (s.setErr e).err = e := rfl
@[simp] theorem setErr_result (e : ErrCode) : (s.setErr e).result = s.result := rfl
@[simp] theorem setErr_fiLen (e : ErrCode) : (s.setErr e).fiLen = s.fiLen := rfl
@[simp] theorem setErr_fiCsum (e : ErrCode) : (s.setErr e).fiCsum = s.fiCsum := rfl
@[simp] theorem setErr_txPadLen (e : ErrCode) : (s.setErr e).txPadLen = s.txPadLen := rfl
@[simp] theorem setErr_ivCtr (e : ErrCode) : (s.setErr e).ivCtr = s.ivCtr := rfl
@[simp] theorem setErr_ivLast (e : ErrCode) : (s.setErr e).ivLast = s.ivLast := rfl
@[simp] theorem setErr_key (e : ErrCode) : (s.setErr e).key = s.key := rfl
@[simp] theorem setErr_cfgKeyLen (e : ErrCode) : (s.setErr e).cfgKeyLen = s.cfgKeyLen := rfl
@[simp] theorem setErr_cfgIvSet (e : ErrCode) : (s.setErr e).cfgIvSet = s.cfgIvSet := rfl
@[simp] theorem setErr_cfgIvSeed (e : ErrCode) : (s.setErr e).cfgIvSeed = s.cfgIvSeed := rfl
@[simp] theorem setErr_cfgKeyStage (e : ErrCode) : (s.setErr e).cfgKeyStage = s.cfgKeyStage := rfl
@[simp] theorem setErr_cfgPower (e : ErrCode) : (s.setErr e).cfgPower = s.cfgPower := rfl
@[simp] theorem setErr_cfgFreq (e : ErrCode) : (s.setErr e).cfgFreq = s.cfgFreq := rfl
@[simp] theorem setErr_cfgOwnAddr (e : ErrCode) : (s.setErr e).cfgOwnAddr = s.cfgOwnAddr := rfl
@[simp] theorem setErr_cfgGwAddr (e : ErrCode) : (s.setErr e).cfgGwAddr = s.cfgGwAddr := rfl
@[simp] theorem setErr_radioPower (e : ErrCode) : (s.setErr e).radioPower = s.radioPower := rfl
@[simp] theorem setErr_radioFreq (e : ErrCode) : (s.setErr e).radioFreq = s.radioFreq := rfl
@[simp] theorem setErr_radioOwnAddr (e : ErrCode) : (s.setErr e).radioOwnAddr = s.radioOwnAddr := rfl
@[simp] theorem setErr_radioGwAddr (e : ErrCode) : (s.setErr e).radioGwAddr = s.radioGwAddr := rfl
@[simp] theorem setErr_mem (e : ErrCode) : (s.setErr e).mem = s.mem := rfl
@[simp] theorem setErr_outside (e : ErrCode) : (s.setErr e).outside = s.outside := rfl

/-! ## `setCfgState` -/

@[simp] theorem setCfgState_seq (c : CfgState) : (s.setCfgState c).seq = s.seq := rfl
@[simp] theorem setCfgState_cfgState (c : CfgState) : (s.setCfgState c).cfgState = c := rfl
@[simp] theorem setCfgState_radioState (c : CfgState) : (s.setCfgState c).radioState = s.radioState := rfl
@[simp] theorem setCfgState_csHeld (c : CfgState) : (s.setCfgState c).csHeld = s.csHeld := rfl
@[simp] theorem setCfgState_err (c : CfgState) : (s.setCfgState c).err = s.err := rfl
@[simp] theorem setCfgState_result (c : CfgState) : (s.setCfgState c).result = s.result := rfl
@[simp] theorem setCfgState_fiLen (c : CfgState) : (s.setCfgState c).fiLen = s.fiLen := rfl
@[simp] theorem setCfgState_fiCsum (c : CfgState) : (s.setCfgState c).fiCsum = s.fiCsum := rfl
@[simp] theorem setCfgState_txPadLen (c : CfgState) : (s.setCfgState c).txPadLen = s.txPadLen := rfl
@[simp] theorem setCfgState_ivCtr (c : CfgState) : (s.setCfgState c).ivCtr = s.ivCtr := rfl
@[simp] theorem setCfgState_ivLast (c : CfgState) : (s.setCfgState c).ivLast = s.ivLast := rfl
@[simp] theorem setCfgState_key (c : CfgState) : (s.setCfgState c).key = s.key := rfl
@[simp] theorem setCfgState_cfgKeyLen (c : CfgState) : (s.setCfgState c).cfgKeyLen = s.cfgKeyLen := rfl
@[simp] theorem setCfgState_cfgIvSet (c : CfgState) : (s.setCfgState c).cfgIvSet = s.cfgIvSet := rfl
@[simp] theorem setCfgState_cfgIvSeed (c : CfgState) : (s.setCfgState c).cfgIvSeed = s.cfgIvSeed := rfl
@[simp] theorem setCfgState_cfgKeyStage (c : CfgState) : (s.setCfgState c).cfgKeyStage = s.cfgKeyStage := rfl
@[simp] theorem setCfgState_cfgPower (c : CfgState) : (s.setCfgState c).cfgPower = s.cfgPower := rfl
@[simp] theorem setCfgState_cfgFreq (c : CfgState) : (s.setCfgState c).cfgFreq = s.cfgFreq := rfl
@[simp] theorem setCfgState_cfgOwnAddr (c : CfgState) : (s.setCfgState c).cfgOwnAddr = s.cfgOwnAddr := rfl
@[simp] theorem setCfgState_cfgGwAddr (c : CfgState) : (s.setCfgState c).cfgGwAddr = s.cfgGwAddr := rfl
@[simp] theorem setCfgState_radioPower (c : CfgState) : (s.setCfgState c).radioPower = s.radioPower := rfl
@[simp] theorem setCfgState_radioFreq (c : CfgState) : (s.setCfgState c).radioFreq = s.radioFreq := rfl
@[simp] theorem setCfgState_radioOwnAddr (c : CfgState) : (s.setCfgState c).radioOwnAddr = s.radioOwnAddr := rfl
@[simp] theorem setCfgState_radioGwAddr (c : CfgState) : (s.setCfgState c).radioGwAddr = s.radioGwAddr := rfl
@[simp] theorem setCfgState_mem (c : CfgState) : (s.setCfgState c).mem = s.mem := rfl
@[simp] theorem setCfgState_outside (c : CfgState) : (s.setCfgState c).outside = s.outside := rfl

/-! ## `setRadioState` -/

@[simp] theorem setRadioState_seq (r : RadioState) : (s.setRadioState r).seq = s.seq := rfl
@[simp] theorem setRadioState_cfgState (r : RadioState) : (s.setRadioState r).cfgState = s.cfgState := rfl
@[simp] theorem setRadioState_radioState (r : RadioState) : (s.setRadioState r).radioState = r := rfl
@[simp] theorem setRadioState_csHeld (r : RadioState) : (s.setRadioState r).csHeld = s.csHeld := rfl
@[simp] theorem setRadioState_err (r : RadioState) : (s.setRadioState r).err = s.err := rfl
@[simp] theorem setRadioState_result (r : RadioState) : (s.setRadioState r).result = s.result := rfl
@[simp] theorem setRadioState_fiLen (r : RadioState) : (s.setRadioState r).fiLen = s.fiLen := rfl
@[simp] theorem setRadioState_fiCsum (r : RadioState) : (s.setRadioState r).fiCsum = s.fiCsum := rfl
@[simp] theorem setRadioState_txPadLen (r : RadioState) : (s.setRadioState r).txPadLen = s.txPadLen := rfl
@[simp] theorem setRadioState_ivCtr (r : RadioState) : (s.setRadioState r).ivCtr = s.ivCtr := rfl
@[simp] theorem setRadioState_ivLast (r : RadioState) : (s.setRadioState r).ivLast = s.ivLast := rfl
@[simp] theorem setRadioState_key (r : RadioState) : (s.setRadioState r).key = s.key := rfl
@[simp] theorem setRadioState_cfgKeyLen (r : RadioState) : (s.setRadioState r).cfgKeyLen = s.cfgKeyLen := rfl
@[simp] theorem setRadioState_cfgIvSet (r : RadioState) : (s.setRadioState r).cfgIvSet = s.cfgIvSet := rfl
@[simp] theorem setRadioState_cfgIvSeed (r : RadioState) : (s.setRadioState r).cfgIvSeed = s.cfgIvSeed := rfl
@[simp] theorem setRadioState_cfgKeyStage (r : RadioState) : (s.setRadioState r).cfgKeyStage = s.cfgKeyStage := rfl
@[simp] theorem setRadioState_cfgPower (r : RadioState) : (s.setRadioState r).cfgPower = s.cfgPower := rfl
@[simp] theorem setRadioState_cfgFreq (r : RadioState) : (s.setRadioState r).cfgFreq = s.cfgFreq := rfl
@[simp] theorem setRadioState_cfgOwnAddr (r : RadioState) : (s.setRadioState r).cfgOwnAddr = s.cfgOwnAddr := rfl
@[simp] theorem setRadioState_cfgGwAddr (r : RadioState) : (s.setRadioState r).cfgGwAddr = s.cfgGwAddr := rfl
@[simp] theorem setRadioState_radioPower (r : RadioState) : (s.setRadioState r).radioPower = s.radioPower := rfl
@[simp] theorem setRadioState_radioFreq (r : RadioState) : (s.setRadioState r).radioFreq = s.radioFreq := rfl
@[simp] theorem setRadioState_radioOwnAddr (r : RadioState) : (s.setRadioState r).radioOwnAddr = s.radioOwnAddr := rfl
@[simp] theorem setRadioState_radioGwAddr (r : RadioState) : (s.setRadioState r).radioGwAddr = s.radioGwAddr := rfl
@[simp] theorem setRadioState_mem (r : RadioState) : (s.setRadioState r).mem = s.mem := rfl
@[simp] theorem setRadioState_outside (r : RadioState) : (s.setRadioState r).outside = s.outside := rfl

/-! ## `setMem` -/

@[simp] theorem setMem_seq (m : Memory) : (s.setMem m).seq = s.seq := rfl
@[simp] theorem setMem_cfgState (m : Memory) : (s.setMem m).cfgState = s.cfgState := rfl
@[simp] theorem setMem_radioState (m : Memory) : (s.setMem m).radioState = s.radioState := rfl
@[simp] theorem setMem_csHeld (m : Memory) : (s.setMem m).csHeld = s.csHeld := rfl
@[simp] theorem setMem_err (m : Memory) : (s.setMem m).err = s.err := rfl
@[simp] theorem setMem_result (m : Memory) : (s.setMem m).result = s.result := rfl
@[simp] theorem setMem_fiLen (m : Memory) : (s.setMem m).fiLen = s.fiLen := rfl
@[simp] theorem setMem_fiCsum (m : Memory) : (s.setMem m).fiCsum = s.fiCsum := rfl
@[simp] theorem setMem_txPadLen (m : Memory) : (s.setMem m).txPadLen = s.txPadLen := rfl
@[simp] theorem setMem_ivCtr (m : Memory) : (s.setMem m).ivCtr = s.ivCtr := rfl
@[simp] theorem setMem_ivLast (m : Memory) : (s.setMem m).ivLast = s.ivLast := rfl
@[simp] theorem setMem_key (m : Memory) : (s.setMem m).key = s.key := rfl
@[simp] theorem setMem_cfgKeyLen (m : Memory) : (s.setMem m).cfgKeyLen = s.cfgKeyLen := rfl
@[simp] theorem setMem_cfgIvSet (m : Memory) : (s.setMem m).cfgIvSet = s.cfgIvSet := rfl
@[simp] theorem setMem_cfgIvSeed (m : Memory) : (s.setMem m).cfgIvSeed = s.cfgIvSeed := rfl
@[simp] theorem setMem_cfgKeyStage (m : Memory) : (s.setMem m).cfgKeyStage = s.cfgKeyStage := rfl
@[simp] theorem setMem_cfgPower (m : Memory) : (s.setMem m).cfgPower = s.cfgPower := rfl
@[simp] theorem setMem_cfgFreq (m : Memory) : (s.setMem m).cfgFreq = s.cfgFreq := rfl
@[simp] theorem setMem_cfgOwnAddr (m : Memory) : (s.setMem m).cfgOwnAddr = s.cfgOwnAddr := rfl
@[simp] theorem setMem_cfgGwAddr (m : Memory) : (s.setMem m).cfgGwAddr = s.cfgGwAddr := rfl
@[simp] theorem setMem_radioPower (m : Memory) : (s.setMem m).radioPower = s.radioPower := rfl
@[simp] theorem setMem_radioFreq (m : Memory) : (s.setMem m).radioFreq = s.radioFreq := rfl
@[simp] theorem setMem_radioOwnAddr (m : Memory) : (s.setMem m).radioOwnAddr = s.radioOwnAddr := rfl
@[simp] theorem setMem_radioGwAddr (m : Memory) : (s.setMem m).radioGwAddr = s.radioGwAddr := rfl
@[simp] theorem setMem_mem (m : Memory) : (s.setMem m).mem = m := rfl
@[simp] theorem setMem_outside (m : Memory) : (s.setMem m).outside = s.outside := rfl

/-! ## `setResponse` -/

@[simp] theorem setResponse_seq (r : BusResponse) : (s.setResponse r).seq = s.seq := rfl
@[simp] theorem setResponse_cfgState (r : BusResponse) : (s.setResponse r).cfgState = s.cfgState := rfl
@[simp] theorem setResponse_radioState (r : BusResponse) : (s.setResponse r).radioState = s.radioState := rfl
@[simp] theorem setResponse_csHeld (r : BusResponse) : (s.setResponse r).csHeld = s.csHeld := rfl
@[simp] theorem setResponse_err (r : BusResponse) : (s.setResponse r).err = s.err := rfl
@[simp] theorem setResponse_result (r : BusResponse) : (s.setResponse r).result = s.result := rfl
@[simp] theorem setResponse_fiLen (r : BusResponse) : (s.setResponse r).fiLen = s.fiLen := rfl
@[simp] theorem setResponse_fiCsum (r : BusResponse) : (s.setResponse r).fiCsum = s.fiCsum := rfl
@[simp] theorem setResponse_txPadLen (r : BusResponse) : (s.setResponse r).txPadLen = s.txPadLen := rfl
@[simp] theorem setResponse_ivCtr (r : BusResponse) : (s.setResponse r).ivCtr = s.ivCtr := rfl
@[simp] theorem setResponse_ivLast (r : BusResponse) : (s.setResponse r).ivLast = s.ivLast := rfl
@[simp] theorem setResponse_key (r : BusResponse) : (s.setResponse r).key = s.key := rfl
@[simp] theorem setResponse_cfgKeyLen (r : BusResponse) : (s.setResponse r).cfgKeyLen = s.cfgKeyLen := rfl
@[simp] theorem setResponse_cfgIvSet (r : BusResponse) : (s.setResponse r).cfgIvSet = s.cfgIvSet := rfl
@[simp] theorem setResponse_cfgIvSeed (r : BusResponse) : (s.setResponse r).cfgIvSeed = s.cfgIvSeed := rfl
@[simp] theorem setResponse_cfgKeyStage (r : BusResponse) : (s.setResponse r).cfgKeyStage = s.cfgKeyStage := rfl
@[simp] theorem setResponse_cfgPower (r : BusResponse) : (s.setResponse r).cfgPower = s.cfgPower := rfl
@[simp] theorem setResponse_cfgFreq (r : BusResponse) : (s.setResponse r).cfgFreq = s.cfgFreq := rfl
@[simp] theorem setResponse_cfgOwnAddr (r : BusResponse) : (s.setResponse r).cfgOwnAddr = s.cfgOwnAddr := rfl
@[simp] theorem setResponse_cfgGwAddr (r : BusResponse) : (s.setResponse r).cfgGwAddr = s.cfgGwAddr := rfl
@[simp] theorem setResponse_radioPower (r : BusResponse) : (s.setResponse r).radioPower = s.radioPower := rfl
@[simp] theorem setResponse_radioFreq (r : BusResponse) : (s.setResponse r).radioFreq = s.radioFreq := rfl
@[simp] theorem setResponse_radioOwnAddr (r : BusResponse) : (s.setResponse r).radioOwnAddr = s.radioOwnAddr := rfl
@[simp] theorem setResponse_radioGwAddr (r : BusResponse) : (s.setResponse r).radioGwAddr = s.radioGwAddr := rfl
@[simp] theorem setResponse_mem (r : BusResponse) : (s.setResponse r).mem = s.mem := rfl
@[simp] theorem setResponse_outside_inputs (r : BusResponse) : (s.setResponse r).outside.inputs = s.outside.inputs := rfl
@[simp] theorem setResponse_outside_response (r : BusResponse) : (s.setResponse r).outside.response = r := rfl
@[simp] theorem setResponse_outside_sends (r : BusResponse) : (s.setResponse r).outside.sends = s.outside.sends := rfl
@[simp] theorem setResponse_outside_dones (r : BusResponse) : (s.setResponse r).outside.dones = s.outside.dones := rfl
@[simp] theorem setResponse_outside_draws (r : BusResponse) : (s.setResponse r).outside.draws = s.outside.draws := rfl

/-! ## `setInputs` -/

@[simp] theorem setInputs_seq (l : List Input) : (s.setInputs l).seq = s.seq := rfl
@[simp] theorem setInputs_cfgState (l : List Input) : (s.setInputs l).cfgState = s.cfgState := rfl
@[simp] theorem setInputs_radioState (l : List Input) : (s.setInputs l).radioState = s.radioState := rfl
@[simp] theorem setInputs_csHeld (l : List Input) : (s.setInputs l).csHeld = s.csHeld := rfl
@[simp] theorem setInputs_err (l : List Input) : (s.setInputs l).err = s.err := rfl
@[simp] theorem setInputs_result (l : List Input) : (s.setInputs l).result = s.result := rfl
@[simp] theorem setInputs_fiLen (l : List Input) : (s.setInputs l).fiLen = s.fiLen := rfl
@[simp] theorem setInputs_fiCsum (l : List Input) : (s.setInputs l).fiCsum = s.fiCsum := rfl
@[simp] theorem setInputs_txPadLen (l : List Input) : (s.setInputs l).txPadLen = s.txPadLen := rfl
@[simp] theorem setInputs_ivCtr (l : List Input) : (s.setInputs l).ivCtr = s.ivCtr := rfl
@[simp] theorem setInputs_ivLast (l : List Input) : (s.setInputs l).ivLast = s.ivLast := rfl
@[simp] theorem setInputs_key (l : List Input) : (s.setInputs l).key = s.key := rfl
@[simp] theorem setInputs_cfgKeyLen (l : List Input) : (s.setInputs l).cfgKeyLen = s.cfgKeyLen := rfl
@[simp] theorem setInputs_cfgIvSet (l : List Input) : (s.setInputs l).cfgIvSet = s.cfgIvSet := rfl
@[simp] theorem setInputs_cfgIvSeed (l : List Input) : (s.setInputs l).cfgIvSeed = s.cfgIvSeed := rfl
@[simp] theorem setInputs_cfgKeyStage (l : List Input) : (s.setInputs l).cfgKeyStage = s.cfgKeyStage := rfl
@[simp] theorem setInputs_cfgPower (l : List Input) : (s.setInputs l).cfgPower = s.cfgPower := rfl
@[simp] theorem setInputs_cfgFreq (l : List Input) : (s.setInputs l).cfgFreq = s.cfgFreq := rfl
@[simp] theorem setInputs_cfgOwnAddr (l : List Input) : (s.setInputs l).cfgOwnAddr = s.cfgOwnAddr := rfl
@[simp] theorem setInputs_cfgGwAddr (l : List Input) : (s.setInputs l).cfgGwAddr = s.cfgGwAddr := rfl
@[simp] theorem setInputs_radioPower (l : List Input) : (s.setInputs l).radioPower = s.radioPower := rfl
@[simp] theorem setInputs_radioFreq (l : List Input) : (s.setInputs l).radioFreq = s.radioFreq := rfl
@[simp] theorem setInputs_radioOwnAddr (l : List Input) : (s.setInputs l).radioOwnAddr = s.radioOwnAddr := rfl
@[simp] theorem setInputs_radioGwAddr (l : List Input) : (s.setInputs l).radioGwAddr = s.radioGwAddr := rfl
@[simp] theorem setInputs_mem (l : List Input) : (s.setInputs l).mem = s.mem := rfl
@[simp] theorem setInputs_outside_inputs (l : List Input) : (s.setInputs l).outside.inputs = l := rfl
@[simp] theorem setInputs_outside_response (l : List Input) : (s.setInputs l).outside.response = s.outside.response := rfl
@[simp] theorem setInputs_outside_sends (l : List Input) : (s.setInputs l).outside.sends = s.outside.sends := rfl
@[simp] theorem setInputs_outside_dones (l : List Input) : (s.setInputs l).outside.dones = s.outside.dones := rfl
@[simp] theorem setInputs_outside_draws (l : List Input) : (s.setInputs l).outside.draws = s.outside.draws := rfl

/-! ## `setDraws` -/

@[simp] theorem setDraws_seq (n : Nat) : (s.setDraws n).seq = s.seq := rfl
@[simp] theorem setDraws_cfgState (n : Nat) : (s.setDraws n).cfgState = s.cfgState := rfl
@[simp] theorem setDraws_radioState (n : Nat) : (s.setDraws n).radioState = s.radioState := rfl
@[simp] theorem setDraws_csHeld (n : Nat) : (s.setDraws n).csHeld = s.csHeld := rfl
@[simp] theorem setDraws_err (n : Nat) : (s.setDraws n).err = s.err := rfl
@[simp] theorem setDraws_result (n : Nat) : (s.setDraws n).result = s.result := rfl
@[simp] theorem setDraws_fiLen (n : Nat) : (s.setDraws n).fiLen = s.fiLen := rfl
@[simp] theorem setDraws_fiCsum (n : Nat) : (s.setDraws n).fiCsum = s.fiCsum := rfl
@[simp] theorem setDraws_txPadLen (n : Nat) : (s.setDraws n).txPadLen = s.txPadLen := rfl
@[simp] theorem setDraws_ivCtr (n : Nat) : (s.setDraws n).ivCtr = s.ivCtr := rfl
@[simp] theorem setDraws_ivLast (n : Nat) : (s.setDraws n).ivLast = s.ivLast := rfl
@[simp] theorem setDraws_key (n : Nat) : (s.setDraws n).key = s.key := rfl
@[simp] theorem setDraws_cfgKeyLen (n : Nat) : (s.setDraws n).cfgKeyLen = s.cfgKeyLen := rfl
@[simp] theorem setDraws_cfgIvSet (n : Nat) : (s.setDraws n).cfgIvSet = s.cfgIvSet := rfl
@[simp] theorem setDraws_cfgIvSeed (n : Nat) : (s.setDraws n).cfgIvSeed = s.cfgIvSeed := rfl
@[simp] theorem setDraws_cfgKeyStage (n : Nat) : (s.setDraws n).cfgKeyStage = s.cfgKeyStage := rfl
@[simp] theorem setDraws_cfgPower (n : Nat) : (s.setDraws n).cfgPower = s.cfgPower := rfl
@[simp] theorem setDraws_cfgFreq (n : Nat) : (s.setDraws n).cfgFreq = s.cfgFreq := rfl
@[simp] theorem setDraws_cfgOwnAddr (n : Nat) : (s.setDraws n).cfgOwnAddr = s.cfgOwnAddr := rfl
@[simp] theorem setDraws_cfgGwAddr (n : Nat) : (s.setDraws n).cfgGwAddr = s.cfgGwAddr := rfl
@[simp] theorem setDraws_radioPower (n : Nat) : (s.setDraws n).radioPower = s.radioPower := rfl
@[simp] theorem setDraws_radioFreq (n : Nat) : (s.setDraws n).radioFreq = s.radioFreq := rfl
@[simp] theorem setDraws_radioOwnAddr (n : Nat) : (s.setDraws n).radioOwnAddr = s.radioOwnAddr := rfl
@[simp] theorem setDraws_radioGwAddr (n : Nat) : (s.setDraws n).radioGwAddr = s.radioGwAddr := rfl
@[simp] theorem setDraws_mem (n : Nat) : (s.setDraws n).mem = s.mem := rfl
@[simp] theorem setDraws_outside_inputs (n : Nat) : (s.setDraws n).outside.inputs = s.outside.inputs := rfl
@[simp] theorem setDraws_outside_response (n : Nat) : (s.setDraws n).outside.response = s.outside.response := rfl
@[simp] theorem setDraws_outside_sends (n : Nat) : (s.setDraws n).outside.sends = s.outside.sends := rfl
@[simp] theorem setDraws_outside_dones (n : Nat) : (s.setDraws n).outside.dones = s.outside.dones := rfl
@[simp] theorem setDraws_outside_draws (n : Nat) : (s.setDraws n).outside.draws = n := rfl

/-! ## `latchConfig` -/

@[simp] theorem latchConfig_seq : s.latchConfig.seq = s.seq := rfl
@[simp] theorem latchConfig_cfgState : s.latchConfig.cfgState = .valid := rfl
@[simp] theorem latchConfig_radioState : s.latchConfig.radioState = s.radioState := rfl
@[simp] theorem latchConfig_csHeld : s.latchConfig.csHeld = s.csHeld := rfl
@[simp] theorem latchConfig_err : s.latchConfig.err = .ok := rfl
@[simp] theorem latchConfig_result : s.latchConfig.result = s.result := rfl
@[simp] theorem latchConfig_fiLen : s.latchConfig.fiLen = s.fiLen := rfl
@[simp] theorem latchConfig_fiCsum : s.latchConfig.fiCsum = s.fiCsum := rfl
@[simp] theorem latchConfig_txPadLen : s.latchConfig.txPadLen = s.txPadLen := rfl
@[simp] theorem latchConfig_ivCtr : s.latchConfig.ivCtr = s.cfgIvSeed := rfl
@[simp] theorem latchConfig_ivLast : s.latchConfig.ivLast = s.ivLast := rfl
@[simp] theorem latchConfig_key : s.latchConfig.key = s.cfgKeyStage := rfl
@[simp] theorem latchConfig_cfgKeyLen : s.latchConfig.cfgKeyLen = s.cfgKeyLen := rfl
@[simp] theorem latchConfig_cfgIvSet : s.latchConfig.cfgIvSet = s.cfgIvSet := rfl
@[simp] theorem latchConfig_cfgIvSeed : s.latchConfig.cfgIvSeed = s.cfgIvSeed := rfl
@[simp] theorem latchConfig_cfgKeyStage : s.latchConfig.cfgKeyStage = s.cfgKeyStage := rfl
@[simp] theorem latchConfig_cfgPower : s.latchConfig.cfgPower = s.cfgPower := rfl
@[simp] theorem latchConfig_cfgFreq : s.latchConfig.cfgFreq = s.cfgFreq := rfl
@[simp] theorem latchConfig_cfgOwnAddr : s.latchConfig.cfgOwnAddr = s.cfgOwnAddr := rfl
@[simp] theorem latchConfig_cfgGwAddr : s.latchConfig.cfgGwAddr = s.cfgGwAddr := rfl
@[simp] theorem latchConfig_radioPower : s.latchConfig.radioPower = s.cfgPower := rfl
@[simp] theorem latchConfig_radioFreq : s.latchConfig.radioFreq = s.cfgFreq := rfl
@[simp] theorem latchConfig_radioOwnAddr : s.latchConfig.radioOwnAddr = s.cfgOwnAddr := rfl
@[simp] theorem latchConfig_radioGwAddr : s.latchConfig.radioGwAddr = s.cfgGwAddr := rfl
@[simp] theorem latchConfig_mem : s.latchConfig.mem = s.mem := rfl
@[simp] theorem latchConfig_outside : s.latchConfig.outside = s.outside := rfl

/-! ## `stampFrame` -/

@[simp] theorem stampFrame_seq (len : Byte) (sum : BitVec 16) : (s.stampFrame len sum).seq = s.seq := rfl
@[simp] theorem stampFrame_cfgState (len : Byte) (sum : BitVec 16) : (s.stampFrame len sum).cfgState = s.cfgState := rfl
@[simp] theorem stampFrame_radioState (len : Byte) (sum : BitVec 16) : (s.stampFrame len sum).radioState = s.radioState := rfl
@[simp] theorem stampFrame_csHeld (len : Byte) (sum : BitVec 16) : (s.stampFrame len sum).csHeld = s.csHeld := rfl
@[simp] theorem stampFrame_err (len : Byte) (sum : BitVec 16) : (s.stampFrame len sum).err = .ok := rfl
@[simp] theorem stampFrame_result (len : Byte) (sum : BitVec 16) : (s.stampFrame len sum).result = s.result := rfl
@[simp] theorem stampFrame_fiLen (len : Byte) (sum : BitVec 16) : (s.stampFrame len sum).fiLen = len := rfl
@[simp] theorem stampFrame_fiCsum (len : Byte) (sum : BitVec 16) : (s.stampFrame len sum).fiCsum = sum := rfl
@[simp] theorem stampFrame_txPadLen (len : Byte) (sum : BitVec 16) : (s.stampFrame len sum).txPadLen = s.txPadLen := rfl
@[simp] theorem stampFrame_ivCtr (len : Byte) (sum : BitVec 16) : (s.stampFrame len sum).ivCtr = s.ivCtr := rfl
@[simp] theorem stampFrame_ivLast (len : Byte) (sum : BitVec 16) : (s.stampFrame len sum).ivLast = s.ivLast := rfl
@[simp] theorem stampFrame_key (len : Byte) (sum : BitVec 16) : (s.stampFrame len sum).key = s.key := rfl
@[simp] theorem stampFrame_cfgKeyLen (len : Byte) (sum : BitVec 16) : (s.stampFrame len sum).cfgKeyLen = s.cfgKeyLen := rfl
@[simp] theorem stampFrame_cfgIvSet (len : Byte) (sum : BitVec 16) : (s.stampFrame len sum).cfgIvSet = s.cfgIvSet := rfl
@[simp] theorem stampFrame_cfgIvSeed (len : Byte) (sum : BitVec 16) : (s.stampFrame len sum).cfgIvSeed = s.cfgIvSeed := rfl
@[simp] theorem stampFrame_cfgKeyStage (len : Byte) (sum : BitVec 16) : (s.stampFrame len sum).cfgKeyStage = s.cfgKeyStage := rfl
@[simp] theorem stampFrame_cfgPower (len : Byte) (sum : BitVec 16) : (s.stampFrame len sum).cfgPower = s.cfgPower := rfl
@[simp] theorem stampFrame_cfgFreq (len : Byte) (sum : BitVec 16) : (s.stampFrame len sum).cfgFreq = s.cfgFreq := rfl
@[simp] theorem stampFrame_cfgOwnAddr (len : Byte) (sum : BitVec 16) : (s.stampFrame len sum).cfgOwnAddr = s.cfgOwnAddr := rfl
@[simp] theorem stampFrame_cfgGwAddr (len : Byte) (sum : BitVec 16) : (s.stampFrame len sum).cfgGwAddr = s.cfgGwAddr := rfl
@[simp] theorem stampFrame_radioPower (len : Byte) (sum : BitVec 16) : (s.stampFrame len sum).radioPower = s.radioPower := rfl
@[simp] theorem stampFrame_radioFreq (len : Byte) (sum : BitVec 16) : (s.stampFrame len sum).radioFreq = s.radioFreq := rfl
@[simp] theorem stampFrame_radioOwnAddr (len : Byte) (sum : BitVec 16) : (s.stampFrame len sum).radioOwnAddr = s.radioOwnAddr := rfl
@[simp] theorem stampFrame_radioGwAddr (len : Byte) (sum : BitVec 16) : (s.stampFrame len sum).radioGwAddr = s.radioGwAddr := rfl
@[simp] theorem stampFrame_mem (len : Byte) (sum : BitVec 16) : (s.stampFrame len sum).mem = writeFb s.mem (frameHeader len sum) := rfl
@[simp] theorem stampFrame_outside (len : Byte) (sum : BitVec 16) : (s.stampFrame len sum).outside = s.outside := rfl

/-! ## `refuseLink` -/

@[simp] theorem refuseLink_seq : s.refuseLink.seq = s.seq := rfl
@[simp] theorem refuseLink_cfgState : s.refuseLink.cfgState = s.cfgState := rfl
@[simp] theorem refuseLink_radioState : s.refuseLink.radioState = s.radioState := rfl
@[simp] theorem refuseLink_csHeld : s.refuseLink.csHeld = false := rfl
@[simp] theorem refuseLink_err : s.refuseLink.err = s.err := rfl
@[simp] theorem refuseLink_result : s.refuseLink.result = .linkAbsent := rfl
@[simp] theorem refuseLink_fiLen : s.refuseLink.fiLen = s.fiLen := rfl
@[simp] theorem refuseLink_fiCsum : s.refuseLink.fiCsum = s.fiCsum := rfl
@[simp] theorem refuseLink_txPadLen : s.refuseLink.txPadLen = s.txPadLen := rfl
@[simp] theorem refuseLink_ivCtr : s.refuseLink.ivCtr = s.ivCtr := rfl
@[simp] theorem refuseLink_ivLast : s.refuseLink.ivLast = s.ivLast := rfl
@[simp] theorem refuseLink_key : s.refuseLink.key = s.key := rfl
@[simp] theorem refuseLink_cfgKeyLen : s.refuseLink.cfgKeyLen = s.cfgKeyLen := rfl
@[simp] theorem refuseLink_cfgIvSet : s.refuseLink.cfgIvSet = s.cfgIvSet := rfl
@[simp] theorem refuseLink_cfgIvSeed : s.refuseLink.cfgIvSeed = s.cfgIvSeed := rfl
@[simp] theorem refuseLink_cfgKeyStage : s.refuseLink.cfgKeyStage = s.cfgKeyStage := rfl
@[simp] theorem refuseLink_cfgPower : s.refuseLink.cfgPower = s.cfgPower := rfl
@[simp] theorem refuseLink_cfgFreq : s.refuseLink.cfgFreq = s.cfgFreq := rfl
@[simp] theorem refuseLink_cfgOwnAddr : s.refuseLink.cfgOwnAddr = s.cfgOwnAddr := rfl
@[simp] theorem refuseLink_cfgGwAddr : s.refuseLink.cfgGwAddr = s.cfgGwAddr := rfl
@[simp] theorem refuseLink_radioPower : s.refuseLink.radioPower = s.radioPower := rfl
@[simp] theorem refuseLink_radioFreq : s.refuseLink.radioFreq = s.radioFreq := rfl
@[simp] theorem refuseLink_radioOwnAddr : s.refuseLink.radioOwnAddr = s.radioOwnAddr := rfl
@[simp] theorem refuseLink_radioGwAddr : s.refuseLink.radioGwAddr = s.radioGwAddr := rfl
@[simp] theorem refuseLink_mem : s.refuseLink.mem = s.mem := rfl
@[simp] theorem refuseLink_outside : s.refuseLink.outside = s.outside := rfl

/-! ## `releaseCs` -/

@[simp] theorem releaseCs_seq : s.releaseCs.seq = s.seq := rfl
@[simp] theorem releaseCs_cfgState : s.releaseCs.cfgState = s.cfgState := rfl
@[simp] theorem releaseCs_radioState : s.releaseCs.radioState = s.radioState := rfl
@[simp] theorem releaseCs_csHeld : s.releaseCs.csHeld = false := rfl
@[simp] theorem releaseCs_err : s.releaseCs.err = s.err := rfl
@[simp] theorem releaseCs_result : s.releaseCs.result = s.result := rfl
@[simp] theorem releaseCs_fiLen : s.releaseCs.fiLen = s.fiLen := rfl
@[simp] theorem releaseCs_fiCsum : s.releaseCs.fiCsum = s.fiCsum := rfl
@[simp] theorem releaseCs_txPadLen : s.releaseCs.txPadLen = s.txPadLen := rfl
@[simp] theorem releaseCs_ivCtr : s.releaseCs.ivCtr = s.ivCtr := rfl
@[simp] theorem releaseCs_ivLast : s.releaseCs.ivLast = s.ivLast := rfl
@[simp] theorem releaseCs_key : s.releaseCs.key = s.key := rfl
@[simp] theorem releaseCs_cfgKeyLen : s.releaseCs.cfgKeyLen = s.cfgKeyLen := rfl
@[simp] theorem releaseCs_cfgIvSet : s.releaseCs.cfgIvSet = s.cfgIvSet := rfl
@[simp] theorem releaseCs_cfgIvSeed : s.releaseCs.cfgIvSeed = s.cfgIvSeed := rfl
@[simp] theorem releaseCs_cfgKeyStage : s.releaseCs.cfgKeyStage = s.cfgKeyStage := rfl
@[simp] theorem releaseCs_cfgPower : s.releaseCs.cfgPower = s.cfgPower := rfl
@[simp] theorem releaseCs_cfgFreq : s.releaseCs.cfgFreq = s.cfgFreq := rfl
@[simp] theorem releaseCs_cfgOwnAddr : s.releaseCs.cfgOwnAddr = s.cfgOwnAddr := rfl
@[simp] theorem releaseCs_cfgGwAddr : s.releaseCs.cfgGwAddr = s.cfgGwAddr := rfl
@[simp] theorem releaseCs_radioPower : s.releaseCs.radioPower = s.radioPower := rfl
@[simp] theorem releaseCs_radioFreq : s.releaseCs.radioFreq = s.radioFreq := rfl
@[simp] theorem releaseCs_radioOwnAddr : s.releaseCs.radioOwnAddr = s.radioOwnAddr := rfl
@[simp] theorem releaseCs_radioGwAddr : s.releaseCs.radioGwAddr = s.radioGwAddr := rfl
@[simp] theorem releaseCs_mem : s.releaseCs.mem = s.mem := rfl
@[simp] theorem releaseCs_outside : s.releaseCs.outside = s.outside := rfl

/-! ## `sendPadded` -/

@[simp] theorem sendPadded_seq (p : List Byte) : (s.sendPadded p).seq = .busy := rfl
@[simp] theorem sendPadded_cfgState (p : List Byte) : (s.sendPadded p).cfgState = s.cfgState := rfl
@[simp] theorem sendPadded_radioState (p : List Byte) : (s.sendPadded p).radioState = s.radioState := rfl
@[simp] theorem sendPadded_csHeld (p : List Byte) : (s.sendPadded p).csHeld = true := rfl
@[simp] theorem sendPadded_err (p : List Byte) : (s.sendPadded p).err = .ok := rfl
@[simp] theorem sendPadded_result (p : List Byte) : (s.sendPadded p).result = .inProgress := rfl
@[simp] theorem sendPadded_fiLen (p : List Byte) : (s.sendPadded p).fiLen = s.fiLen := rfl
@[simp] theorem sendPadded_fiCsum (p : List Byte) : (s.sendPadded p).fiCsum = s.fiCsum := rfl
@[simp] theorem sendPadded_txPadLen (p : List Byte) : (s.sendPadded p).txPadLen = BitVec.ofNat 9 p.length := rfl
@[simp] theorem sendPadded_ivCtr (p : List Byte) : (s.sendPadded p).ivCtr = s.ivCtr + 1#64 := rfl
@[simp] theorem sendPadded_ivLast (p : List Byte) : (s.sendPadded p).ivLast = ivBlock (s.ivCtr + 1#64) := rfl
@[simp] theorem sendPadded_key (p : List Byte) : (s.sendPadded p).key = s.key := rfl
@[simp] theorem sendPadded_cfgKeyLen (p : List Byte) : (s.sendPadded p).cfgKeyLen = s.cfgKeyLen := rfl
@[simp] theorem sendPadded_cfgIvSet (p : List Byte) : (s.sendPadded p).cfgIvSet = s.cfgIvSet := rfl
@[simp] theorem sendPadded_cfgIvSeed (p : List Byte) : (s.sendPadded p).cfgIvSeed = s.cfgIvSeed := rfl
@[simp] theorem sendPadded_cfgKeyStage (p : List Byte) : (s.sendPadded p).cfgKeyStage = s.cfgKeyStage := rfl
@[simp] theorem sendPadded_cfgPower (p : List Byte) : (s.sendPadded p).cfgPower = s.cfgPower := rfl
@[simp] theorem sendPadded_cfgFreq (p : List Byte) : (s.sendPadded p).cfgFreq = s.cfgFreq := rfl
@[simp] theorem sendPadded_cfgOwnAddr (p : List Byte) : (s.sendPadded p).cfgOwnAddr = s.cfgOwnAddr := rfl
@[simp] theorem sendPadded_cfgGwAddr (p : List Byte) : (s.sendPadded p).cfgGwAddr = s.cfgGwAddr := rfl
@[simp] theorem sendPadded_radioPower (p : List Byte) : (s.sendPadded p).radioPower = s.radioPower := rfl
@[simp] theorem sendPadded_radioFreq (p : List Byte) : (s.sendPadded p).radioFreq = s.radioFreq := rfl
@[simp] theorem sendPadded_radioOwnAddr (p : List Byte) : (s.sendPadded p).radioOwnAddr = s.radioOwnAddr := rfl
@[simp] theorem sendPadded_radioGwAddr (p : List Byte) : (s.sendPadded p).radioGwAddr = s.radioGwAddr := rfl
@[simp] theorem sendPadded_mem (p : List Byte) : (s.sendPadded p).mem = writeCb s.mem (encrypt s.key (ivBlock (s.ivCtr + 1#64)) p) := rfl
@[simp] theorem sendPadded_outside_inputs (p : List Byte) : (s.sendPadded p).outside.inputs = s.outside.inputs := rfl
@[simp] theorem sendPadded_outside_response (p : List Byte) : (s.sendPadded p).outside.response = s.outside.response := rfl
@[simp] theorem sendPadded_outside_sends (p : List Byte) : (s.sendPadded p).outside.sends = s.outside.sends ++ [encrypt s.key (ivBlock (s.ivCtr + 1#64)) p] := rfl
@[simp] theorem sendPadded_outside_dones (p : List Byte) : (s.sendPadded p).outside.dones = s.outside.dones := rfl
@[simp] theorem sendPadded_outside_draws (p : List Byte) : (s.sendPadded p).outside.draws = s.outside.draws := rfl

end Sys2Proof.Machine.State
end

