-- ==== Sys2Proof/Laws/Ops.lean ====
section
/-! SUPPORT. One lemma for each shared operation of the commands: what it answers, and when. -/

namespace Sys2Proof.Machine

/-! ## Errors and the BUSY check -/

@[simp] theorem raiseErr_eq (e : ErrCode) (s : State) : raiseErr e s = .next (s.setErr e) := rfl

theorem whenIdle_idle {s : State} (h : s.seq = .idle) (act : State → Host.Outcome State Fault Refusal) :
    whenIdle s act = act s := by
  simp [whenIdle, h]

theorem whenIdle_busy {s : State} (h : s.seq = .busy) (act : State → Host.Outcome State Fault Refusal) :
    whenIdle s act = .next (s.setErr .busy) := by
  simp [whenIdle, h]

theorem Seq.idle_or_busy (q : Seq) : q = .idle ∨ q = .busy := by cases q <;> simp

/-! ## Reading the frame buffer -/

theorem readFb_ok {m : Memory} {i n : Nat} {bs : List Byte} (h : readFb m i n = .ok bs) :
    bs.length = n ∧ ∀ k, k < n → fbByte m (i + k) = bs[k]? := by
  induction n generalizing i bs with
  | zero => cases h; simp
  | succ n ih =>
    simp only [readFb] at h
    split at h
    · cases h
    · rename_i b hb
      split at h
      · cases h
      · rename_i rest hr
        cases h
        obtain ⟨hl, hk⟩ := ih hr
        refine ⟨by simp [hl], fun k hkn => ?_⟩
        cases k with
        | zero => simpa using hb
        | succ k =>
          have := hk k (by omega)
          rw [List.getElem?_cons_succ, ← this]
          congr 1; omega

theorem readFb_of_written {m : Memory} {i n : Nat} (h : ∀ k, k < n → fbWritten m (i + k) = true) :
    readFb m i n = .ok ((List.range n).map fun k => (fbByte m (i + k)).getD 0#8) := by
  induction n generalizing i with
  | zero => rfl
  | succ n ih =>
    have h0 := h 0 (by omega)
    simp only [Nat.add_zero, fbWritten, Option.isSome_iff_exists] at h0
    obtain ⟨b, hb⟩ := h0
    have := ih (i := i + 1) fun k hk => by
      have := h (k + 1) (by omega)
      rwa [show i + 1 + k = i + (k + 1) by omega]
    simp only [readFb, hb, this, List.range_succ_eq_map, List.map_cons, List.map_map, Nat.add_zero, Option.getD_some]
    congr 2
    refine List.map_congr_left fun k _ => ?_
    simp only [Function.comp, Nat.succ_eq_add_one]
    rw [show i + 1 + k = i + (k + 1) by omega]

/-- The read stops at the first byte that has not been written. -/
theorem readFb_of_unwritten {m : Memory} {i n k : Nat} (hk : k < n) (hu : fbWritten m (i + k) = false)
    (h : ∀ j, j < k → fbWritten m (i + j) = true) : readFb m i n = .error (.unwrittenFrameByte (i + k)) := by
  induction n generalizing i k with
  | zero => omega
  | succ n ih =>
    cases k with
    | zero =>
      have : fbByte m i = none := by simpa [fbWritten] using hu
      simp [readFb, this]
    | succ k =>
      have h0 := h 0 (by omega)
      simp only [Nat.add_zero, fbWritten, Option.isSome_iff_exists] at h0
      obtain ⟨b, hb⟩ := h0
      have := ih (i := i + 1) (k := k) (by omega) (by rwa [show i + 1 + k = i + (k + 1) by omega]) fun j hj => by
        have := h (j + 1) (by omega)
        rwa [show i + 1 + j = i + (j + 1) by omega]
      simp only [readFb, hb, this]
      rw [show i + 1 + k = i + (k + 1) by omega]

/-- The read sees only the frame buffer. -/
theorem readFb_congr {m m' : Memory} {i n : Nat} (h : ∀ k, k < n → fbByte m (i + k) = fbByte m' (i + k)) :
    readFb m i n = readFb m' i n := by
  induction n generalizing i with
  | zero => rfl
  | succ n ih =>
    have h0 : fbByte m i = fbByte m' i := by simpa using h 0 (by omega)
    have := ih (i := i + 1) fun k hk => by
      have := h (k + 1) (by omega)
      rwa [show i + 1 + k = i + (k + 1) by omega]
    simp only [readFb, h0, this]

theorem readFb_error {m : Memory} {i n : Nat} {f : Fault} (h : readFb m i n = .error f) :
    ∃ k, k < n ∧ fbWritten m (i + k) = false := by
  by_contra hne
  have : ∀ k, k < n → fbWritten m (i + k) = true := fun k hk => by
    by_contra hb; exact hne ⟨k, hk, by simpa using hb⟩
  rw [readFb_of_written this] at h
  cases h

/-! ## The checksum (R141, R147) -/

theorem checksum_toNat (bs : List Byte) : (checksum bs).toNat = (bs.map BitVec.toNat).sum % 65536 := by
  induction bs with
  | nil => rfl
  | cons b bs ih => simp [checksum, ih, Nat.add_mod, BitVec.toNat_setWidth]

theorem sum_bytes_le (bs : List Byte) : (bs.map BitVec.toNat).sum ≤ 255 * bs.length := by
  induction bs with
  | nil => simp
  | cons b bs ih =>
    have := b.isLt
    simp only [List.map_cons, List.sum_cons, List.length_cons]
    omega

theorem checksum_le (bs : List Byte) : (checksum bs).toNat ≤ 255 * bs.length := by
  rw [checksum_toNat]
  exact Nat.le_trans (Nat.mod_le _ _) (sum_bytes_le bs)

theorem checksum_eq_ofNat (bs : List Byte) : checksum bs = BitVec.ofNat 16 (bs.map BitVec.toNat).sum := by
  apply BitVec.eq_of_toNat_eq
  rw [checksum_toNat, BitVec.toNat_ofNat]

/-- A successful read's checksum is R140's sum over the buffer. -/
theorem checksum_of_readFb {s : State} {l : Nat} {bs : List Byte} (h : readFb s.mem 3 (l - 3) = .ok bs) :
    checksum bs = BitVec.ofNat 16 (frameSum s l) := by
  obtain ⟨hl, hk⟩ := readFb_ok h
  have hbs : bs.map BitVec.toNat = (List.range' 3 (l - 3)).map fun i => (fbValue s i).toNat := by
    apply List.ext_getElem?
    intro k
    simp only [List.getElem?_map]
    by_cases hkl : k < l - 3
    · rw [List.getElem?_range' hkl, ← hk k hkl]
      have hb := hk k hkl
      rw [List.getElem?_eq_getElem (by omega)] at hb
      simp [hb, fbValue]
    · rw [List.getElem?_eq_none (by omega), List.getElem?_eq_none (by simp; omega)]
      rfl
  rw [checksum_eq_ofNat, hbs, frameSum]
  apply BitVec.eq_of_toNat_eq
  simp

/-! ## The configuration checks (R121 to R125) -/

theorem keyLenOk_iff (s : State) : keyLenOk s = true ↔ s.cfgKeyLen = 16#8 := by
  simp only [keyLenOk, Config.keyBytes, beq_iff_eq]
  exact ⟨fun h => BitVec.eq_of_toNat_eq h, fun h => by rw [h]; rfl⟩

theorem ivSeedOk_iff (s : State) : ivSeedOk s = true ↔ s.cfgIvSet = true ∧ s.cfgIvSeed ≠ 0#64 := by
  simp [ivSeedOk]

theorem powerOk_iff (s : State) : powerOk s = true ↔ 5 ≤ s.cfgPower.toInt ∧ s.cfgPower.toInt ≤ 23 := by
  simp only [powerOk, Bool.and_eq_true, decide_eq_true_eq]

theorem freqOk_iff (s : State) :
    freqOk s = true ↔ s.cfgFreq.toInt = 433 ∨ s.cfgFreq.toInt = 866 ∨ s.cfgFreq.toInt = 915 := by
  simp [freqOk, sint32, Config.freqSet]

theorem addrInRange_iff (v : Word) : addrInRange v = true ↔ 0 ≤ v.toInt ∧ v.toInt ≤ 254 := by
  simp only [addrInRange, Bool.and_eq_true, decide_eq_true_eq]

theorem addrsOk_iff (s : State) : addrsOk s = true ↔ (0 ≤ s.cfgOwnAddr.toInt ∧ s.cfgOwnAddr.toInt ≤ 254) ∧
    0 ≤ s.cfgGwAddr.toInt ∧ s.cfgGwAddr.toInt ≤ 254 := by
  simp [addrsOk, addrInRange_iff]

theorem validate_ok_iff (s : State) : validate s = .ok ↔ ConfigPasses s := by
  constructor
  · intro h
    simp only [validate] at h
    split at h <;> try cases h
    split at h <;> try cases h
    split at h <;> try cases h
    split at h <;> try cases h
    split at h <;> try cases h
    rename_i h1 h2 h3 h4 h5
    simp only [Bool.not_eq_true', Bool.not_eq_false] at h1 h2 h3 h4 h5
    exact ⟨(keyLenOk_iff s).1 h1, (ivSeedOk_iff s).1 h2, (powerOk_iff s).1 h3, (freqOk_iff s).1 h4,
      (addrsOk_iff s).1 h5⟩
  · intro h
    simp [validate, (keyLenOk_iff s).2 h.keyLen, (ivSeedOk_iff s).2 h.seed, (powerOk_iff s).2 h.power,
      (freqOk_iff s).2 h.freq, (addrsOk_iff s).2 h.addrs]

theorem linkPresent_iff (s : State) : linkPresent s = true ↔ s.cfgState = .valid ∧ s.radioState = .ok := by
  simp [linkPresent]

/-! ## Padding and counter mode -/

theorem padLen_mod (l : Nat) : padLen l % 16 = 0 := by simp only [padLen, Config.nBlock]; omega

theorem padLen_bounds (l : Nat) : l < padLen l ∧ padLen l ≤ l + 16 := by simp only [padLen, Config.nBlock]; omega

theorem padLen_le (len : Byte) : padLen len.toNat ≤ 256 := by
  have := len.isLt
  simp only [padLen, Config.nBlock]; omega

@[simp] theorem padBytes_length (d n : Nat) : (padBytes d n).length = n := by simp [padBytes]

@[simp] theorem blockBytes_length (b : Block) : (blockBytes b).length = 16 := by simp [blockBytes]

theorem keystream_length (key ivb : Block) (n : Nat) : (keystream key ivb n).length = 16 * n := by
  simp only [keystream, List.length_flatMap, blockBytes_length, List.map_const', List.sum_replicate, List.length_range,
    smul_eq_mul]
  omega

theorem keystream_succ (key ivb : Block) (n : Nat) :
    keystream key ivb (n + 1) = keystream key ivb n ++ blockBytes (aes128 key (ctrBlock ivb n)) := by
  simp [keystream, List.range_succ]

/-- Byte i of the keystream is byte i mod 16 of block i div 16 (R166). -/
theorem keystream_getElem? (key ivb : Block) (n i : Nat) (h : i < 16 * n) :
    (keystream key ivb n)[i]? = some (byteOf (aes128 key (ctrBlock ivb (i / 16))) (i % 16)) := by
  induction n with
  | zero => omega
  | succ n ih =>
    rw [keystream_succ]
    by_cases hi : i < 16 * n
    · rw [List.getElem?_append_left (by rw [keystream_length]; exact hi), ih hi]
    · rw [List.getElem?_append_right (by rw [keystream_length]; omega), keystream_length]
      have h1 : i / 16 = n := by omega
      have h2 : i - 16 * n = i % 16 := by omega
      rw [h2, h1, blockBytes, List.getElem?_map, List.getElem?_range (by omega)]
      rfl

theorem encrypt_length (key ivb : Block) (p : List Byte) (h : p.length % 16 = 0) :
    (encrypt key ivb p).length = p.length := by
  simp only [encrypt, xorBytes, List.length_zipWith, keystream_length, Config.nBlock]
  omega

/-- `C[i] = P[i] xor KS[i]` (R166). -/
theorem encrypt_getElem? (key ivb : Block) (p : List Byte) (h : p.length % 16 = 0) (i : Nat) :
    (encrypt key ivb p)[i]? =
      p[i]?.map fun b => b ^^^ byteOf (aes128 key (ctrBlock ivb (i / 16))) (i % 16) := by
  by_cases hi : i < p.length
  · simp only [encrypt, xorBytes, List.getElem?_zipWith, Config.nBlock]
    rw [keystream_getElem? key ivb _ i (by omega), List.getElem?_eq_getElem hi]
    rfl
  · rw [List.getElem?_eq_none (by rw [encrypt_length _ _ _ h]; omega), List.getElem?_eq_none (by omega)]
    rfl

end Sys2Proof.Machine
end

