-- ==== Sys2Proof/Laws/Commands.lean ====
section
/-! SUPPORT. What a command can do when it answers a next state, said once for all four: `exec_next`. -/

namespace Sys2Proof.Machine

/-- The states a command write can leave from `s` (R90, R120, R129, R140, R160): an error recorded and nothing else, or one of
the commands' own effects with the conditions it has. -/
inductive CommandEffect (s : State) : Instr → State → Prop where
  /-- BUSY, on any command (R230). -/
  | busy (i : Instr) (hb : s.seq = .busy) : CommandEffect s i (s.setErr .busy)
  /-- CFG_LOAD's BAD_STATE (R128). -/
  | cfgAgain (hi : s.seq = .idle) (hc : s.cfgState ≠ .unconfigured) : CommandEffect s .cfgLoad (s.setErr .badState)
  /-- A failed check (R127). -/
  | cfgFailed (hi : s.seq = .idle) (hc : s.cfgState = .unconfigured) (hv : validate s ≠ .ok) :
      CommandEffect s .cfgLoad ((s.setCfgState .invalid).setErr (validate s))
  /-- A passed validation (R126). -/
  | cfgLoaded (hi : s.seq = .idle) (hc : s.cfgState = .unconfigured) (hv : ConfigPasses s) :
      CommandEffect s .cfgLoad s.latchConfig
  /-- LINK_INIT's BAD_STATE (R129). -/
  | linkAgain (arg : Byte) (hi : s.seq = .idle) (hr : s.radioState ≠ .unknown) :
      CommandEffect s (.linkInit arg) (s.setErr .badState)
  /-- LINK_INIT's record (R129). -/
  | linkReported (arg : Byte) (hi : s.seq = .idle) (hr : s.radioState = .unknown) :
      CommandEffect s (.linkInit arg) ((s.setRadioState (reportedState arg)).setErr .ok)
  /-- BAD_LEN (R145). -/
  | frameShort (len : Byte) (hi : s.seq = .idle) (hl : len.toNat < 3) :
      CommandEffect s (.frame len) (s.setErr .badLen)
  /-- A stamped frame (R140). -/
  | framed (len : Byte) (payload : List Byte) (hi : s.seq = .idle) (hl : 3 ≤ len.toNat)
      (hp : readFb s.mem 3 (len.toNat - 3) = .ok payload) :
      CommandEffect s (.frame len) (s.stampFrame len (checksum payload))
  /-- LINK_ABSENT (R173). -/
  | linkAbsent (len : Byte) (hi : s.seq = .idle) (hl : linkPresent s = false) :
      CommandEffect s (.transmit len) (s.refuseLink.setErr .linkAbsent)
  /-- IV_EXHAUSTED (R174). -/
  | exhausted (len : Byte) (hi : s.seq = .idle) (hl : linkPresent s = true) (hv : s.ivCtr = BitVec.allOnes 64) :
      CommandEffect s (.transmit len) (s.releaseCs.setErr .ivExhausted)
  /-- An accepted TRANSMIT (R160). -/
  | accepted (len : Byte) (bytes pad : List Byte) (d : Nat) (hi : s.seq = .idle) (hl : linkPresent s = true)
      (hv : s.ivCtr ≠ BitVec.allOnes 64) (hb : readFb s.mem 0 len.toNat = .ok bytes)
      (hp : pad.length = padLen len.toNat - len.toNat) :
      CommandEffect s (.transmit len) ((s.setDraws d).sendPadded (bytes ++ pad))

theorem execCfgLoad_next {s t : State} (h : execCfgLoad s = .next t) : CommandEffect s .cfgLoad t := by
  rcases s.seq.idle_or_busy with hq | hq
  · rw [execCfgLoad, whenIdle_idle hq] at h
    split at h
    · rename_i hc
      split at h
      · rename_i hv; cases h; exact .cfgLoaded hq hc ((validate_ok_iff s).1 hv)
      · rename_i hv; cases h; exact .cfgFailed hq hc hv
    · rename_i hc; cases h; exact .cfgAgain hq (by simp [hc])
    · rename_i hc; cases h; exact .cfgAgain hq (by simp [hc])
  · rw [execCfgLoad, whenIdle_busy hq] at h; cases h; exact .busy _ hq

theorem execLinkInit_next {s t : State} {arg : Byte} (h : execLinkInit arg s = .next t) :
    CommandEffect s (.linkInit arg) t := by
  rcases s.seq.idle_or_busy with hq | hq
  · rw [execLinkInit, whenIdle_idle hq] at h
    split at h
    · rename_i hr; cases h; exact .linkReported arg hq hr
    · rename_i hr; cases h; exact .linkAgain arg hq (by simp [hr])
    · rename_i hr; cases h; exact .linkAgain arg hq (by simp [hr])
  · rw [execLinkInit, whenIdle_busy hq] at h; cases h; exact .busy _ hq

theorem execFrame_next {s t : State} {len : Byte} (h : execFrame len s = .next t) :
    CommandEffect s (.frame len) t := by
  rcases s.seq.idle_or_busy with hq | hq
  · rw [execFrame, whenIdle_idle hq] at h
    split at h
    · rename_i hl; cases h; exact .frameShort len hq hl
    · rename_i hl
      split at h
      · cases h
      · rename_i payload hp; cases h; exact .framed len payload hq (Nat.le_of_not_lt hl) hp
  · rw [execFrame, whenIdle_busy hq] at h; cases h; exact .busy _ hq

theorem execTransmit_next {s t : State} {len : Byte} (h : execTransmit len s = .next t) :
    CommandEffect s (.transmit len) t := by
  rcases s.seq.idle_or_busy with hq | hq
  · rw [execTransmit, whenIdle_idle hq] at h
    split at h
    · rename_i hl; cases h; exact .linkAbsent len hq (by simpa using hl)
    · rename_i hl
      split at h
      · rename_i hv; cases h; exact .exhausted len hq (by simpa using hl) (by simpa using hv)
      · rename_i hv
        split at h
        · cases h
        · rename_i bytes hb
          cases h
          exact .accepted len bytes _ _ hq (by simpa using hl) (by simpa using hv) hb (by simp [lenOf])
  · rw [execTransmit, whenIdle_busy hq] at h; cases h; exact .busy _ hq

/-- Everything a command can do when it answers a next state. -/
theorem exec_next {i : Instr} {s t : State} (h : exec i s = .next t) : CommandEffect s i t := by
  cases i with
  | cfgLoad => exact execCfgLoad_next h
  | linkInit arg => exact execLinkInit_next h
  | frame len => exact execFrame_next h
  | transmit len => exact execTransmit_next h

/-- No command is refused by the model. -/
theorem exec_not_refused (i : Instr) (s : State) (r : Refusal) : exec i s ≠ .refused r := by
  intro h
  rcases s.seq.idle_or_busy with hq | hq
  · cases i with
    | cfgLoad =>
      simp only [exec, execCfgLoad, whenIdle_idle hq] at h
      repeat' split at h
      all_goals cases h
    | linkInit arg =>
      simp only [exec, execLinkInit, whenIdle_idle hq] at h
      split at h <;> cases h
    | frame len =>
      simp only [exec, execFrame, whenIdle_idle hq] at h
      repeat' split at h
      all_goals cases h
    | transmit len =>
      simp only [exec, execTransmit, whenIdle_idle hq] at h
      repeat' split at h
      all_goals cases h
  · cases i <;> simp [exec, execCfgLoad, execLinkInit, execFrame, execTransmit, whenIdle_busy hq] at h

/-! ## When FRAME and TRANSMIT answer -/

theorem execFrame_stamps {s : State} {len : Byte} {payload : List Byte} (hq : s.seq = .idle) (hl : 3 ≤ len.toNat)
    (hp : readFb s.mem 3 (len.toNat - 3) = .ok payload) :
    exec (.frame len) s = .next (s.stampFrame len (checksum payload)) := by
  simp only [exec, execFrame, whenIdle_idle hq, lenOf, Config.minFrameLen, Config.hdrBytes]
  rw [if_neg (by omega), hp]

theorem execFrame_faults {s : State} {len : Byte} {f : Fault} (hq : s.seq = .idle) (hl : 3 ≤ len.toNat)
    (hp : readFb s.mem 3 (len.toNat - 3) = .error f) : exec (.frame len) s = .fault f := by
  simp only [exec, execFrame, whenIdle_idle hq, lenOf, Config.minFrameLen, Config.hdrBytes]
  rw [if_neg (by omega), hp]

theorem execTransmit_sends {s : State} {len : Byte} {bytes : List Byte} (hq : s.seq = .idle)
    (hl : linkPresent s = true) (hv : s.ivCtr ≠ BitVec.allOnes 64) (hb : readFb s.mem 0 len.toNat = .ok bytes) :
    exec (.transmit len) s = .next ((s.setDraws (s.outside.draws + (padLen len.toNat - len.toNat))).sendPadded
      (bytes ++ padBytes s.outside.draws (padLen len.toNat - len.toNat))) := by
  simp only [exec, execTransmit, whenIdle_idle hq, lenOf, hl, hb]
  rw [if_neg (by simp), if_neg (by simpa using hv)]

theorem execTransmit_faults {s : State} {len : Byte} {f : Fault} (hq : s.seq = .idle)
    (hl : linkPresent s = true) (hv : s.ivCtr ≠ BitVec.allOnes 64) (hb : readFb s.mem 0 len.toNat = .error f) :
    exec (.transmit len) s = .fault f := by
  simp only [exec, execTransmit, whenIdle_idle hq, lenOf, hl, hb]
  rw [if_neg (by simp), if_neg (by simpa using hv)]

/-- A fault of a command is R48's, at a byte its length covers. -/
theorem exec_fault {i : Instr} {s : State} {f : Fault} (h : exec i s = .fault f) :
    s.seq = .idle ∧ ((∃ len k, i = .frame len ∧ 3 + k < len.toNat ∧ fbWritten s.mem (3 + k) = false) ∨
      ∃ len k, i = .transmit len ∧ k < len.toNat ∧ fbWritten s.mem k = false) := by
  rcases s.seq.idle_or_busy with hq | hq
  · refine ⟨hq, ?_⟩
    cases i with
    | cfgLoad =>
      simp only [exec, execCfgLoad, whenIdle_idle hq] at h
      repeat' split at h
      all_goals cases h
    | linkInit arg =>
      simp only [exec, execLinkInit, whenIdle_idle hq] at h
      split at h <;> cases h
    | frame len =>
      simp only [exec, execFrame, whenIdle_idle hq] at h
      split at h
      · cases h
      · split at h
        · rename_i hf
          obtain ⟨k, hk, hu⟩ := readFb_error hf
          simp only [lenOf, Config.hdrBytes] at hk hu
          exact .inl ⟨len, k, rfl, by omega, hu⟩
        · cases h
    | transmit len =>
      simp only [exec, execTransmit, whenIdle_idle hq] at h
      split at h
      · cases h
      · split at h
        · cases h
        · split at h
          · rename_i hf
            obtain ⟨k, hk, hu⟩ := readFb_error hf
            simp only [Nat.zero_add] at hu
            exact .inr ⟨len, k, rfl, hk, hu⟩
          · cases h
  · cases i <;> simp [exec, execCfgLoad, execLinkInit, execFrame, execTransmit, whenIdle_busy hq] at h

end Sys2Proof.Machine
end

