-- ==== Sys2Proof/Laws/PerInstr.lean ====
section
/-! SUPPORT. Statements about the syntax of every command, one lemma per constructor. -/

namespace Sys2Proof.Laws.EncodesOpcode

/-- The command's word has its own opcode in OP, its operand in ARG, and 0 in RSV (R91, R93, R94). -/
def Statement (i : Instr) : Prop :=
  opField (encode i) = opcode i ∧ argField (encode i) = argOf i ∧ rsvField (encode i) = 0#16

/-- The fields of three words side by side. -/
theorem fields_of_append (a o : Byte) : opField (0#16 ++ a ++ o) = o ∧ argField (0#16 ++ a ++ o) = a ∧
    rsvField (0#16 ++ a ++ o) = 0#16 := by
  refine ⟨?_, ?_, ?_⟩ <;> apply BitVec.eq_of_getLsbD_eq <;> intro i hi <;>
    simp only [opField, argField, rsvField, BitVec.getLsbD_extractLsb', BitVec.getLsbD_append]
  · simp [hi]
  · have h1 : ¬ (8 + i < 8) := by omega
    have h2 : 8 + i - 8 = i := by omega
    simp [hi, h2]
  · have h1 : ¬ (16 + i < 8) := by omega
    have h2 : ¬ (16 + i - 8 < 8) := by omega
    simp [h1, h2]

theorem cfgLoad : Statement .cfgLoad := fields_of_append _ _
theorem linkInit (arg : Byte) : Statement (.linkInit arg) := fields_of_append _ _
theorem frame (len : Byte) : Statement (.frame len) := fields_of_append _ _
theorem transmit (len : Byte) : Statement (.transmit len) := fields_of_append _ _

end Sys2Proof.Laws.EncodesOpcode
end

