-- ==== Sys2Proof/Laws/Step.lean ====
section
/-! SUPPORT. What one step can do, said once: `step_next`. -/

namespace Sys2Proof.Machine

/-! ## Reads -/

/-- A read moves only the bus's answer and the draw counter. -/
theorem hostRead_next (off : BitVec 10) (n : Width) (s : State) :
    ∃ r d, hostRead off n s = .next ((s.setDraws d).setResponse r) := by
  simp only [hostRead]
  split
  · exact ⟨_, s.outside.draws, rfl⟩
  · split
    · exact ⟨_, s.outside.draws, rfl⟩
    · exact ⟨_, _, rfl⟩

/-! ## Writes of registers -/

/-- A register write reaches only the staging registers. -/
theorem regWrite_eq (s : State) (off : Nat) (v : Word) :
    regWrite s off v = { s with
      cfgKeyLen := (regWrite s off v).cfgKeyLen, cfgIvSet := (regWrite s off v).cfgIvSet,
      cfgIvSeed := (regWrite s off v).cfgIvSeed, cfgKeyStage := (regWrite s off v).cfgKeyStage,
      cfgPower := (regWrite s off v).cfgPower, cfgFreq := (regWrite s off v).cfgFreq,
      cfgOwnAddr := (regWrite s off v).cfgOwnAddr, cfgGwAddr := (regWrite s off v).cfgGwAddr } := by
  simp only [regWrite]
  split
  · rename_i r _; cases r <;> rfl
  · rfl

/-! ## The steps -/

/-- The states a step can leave from `s`. -/
inductive StepEffect (s : State) : State → Prop where
  /-- No event is waiting. -/
  | waited (hin : s.outside.inputs = []) : StepEffect s s
  /-- An access that reaches no element of the SFE: a read, or a refused access. -/
  | answered (i : Input) (rest : List Input) (hin : s.outside.inputs = i :: rest) (ha : i.isAccess = true)
      (r : BusResponse) (d : Nat) : StepEffect s (((s.setInputs rest).setDraws d).setResponse r)
  /-- A legal command write. -/
  | command (w : Word) (rest : List Input) (hin : s.outside.inputs = .write 0x008#10 .w4 w :: rest) (i : Instr)
      (hd : decodeWord w = .ok i) (u : State) (he : CommandEffect (s.setInputs rest) i u) :
      StepEffect s (u.setResponse .ack)
  /-- An illegal command write (R96). -/
  | illegal (w : Word) (rest : List Input) (hin : s.outside.inputs = .write 0x008#10 .w4 w :: rest) (r : Illegal)
      (hd : decodeWord w = .error r) (e : ErrCode) (he : e = .busy ∧ s.seq = .busy ∨ e = .illegalCmd ∧ s.seq = .idle) :
      StepEffect s (((s.setInputs rest).setErr e).setResponse .ack)
  /-- A register write. -/
  | register (off : BitVec 10) (v : Word) (rest : List Input) (hin : s.outside.inputs = .write off .w4 v :: rest)
      (ho : off ≠ 0x008#10) : StepEffect s ((regWrite (s.setInputs rest) off.toNat v).setResponse .ack)
  /-- A buffer write. -/
  | buffer (off : BitVec 10) (n : Width) (v : Word) (rest : List Input)
      (hin : s.outside.inputs = .write off n v :: rest) (ho : 0x100 ≤ off.toNat) :
      StepEffect s (((s.setInputs rest).setMem (writeLanes s.mem v off.toNat 0 n.bytes)).setResponse .ack)
  /-- The radio's signal. -/
  | radio (rest : List Input) (hin : s.outside.inputs = .radioDone :: rest) :
      StepEffect s (radioDone (s.setInputs rest))
  /-- The reset input. -/
  | resets (rest : List Input) (hin : s.outside.inputs = .reset :: rest) : StepEffect s (resetSfe (s.setInputs rest))

theorem illegalCommand_eq (s : State) :
    illegalCommand s = .next (s.setErr (if s.seq = .busy then .busy else .illegalCmd)) := by
  rcases s.seq.idle_or_busy with h | h
  · simp [illegalCommand, whenIdle_idle h, h]
  · simp [illegalCommand, whenIdle_busy h, h]

theorem acknowledge_next {o : Host.Outcome State Fault Refusal} {t : State} (h : acknowledge o = .next t) :
    ∃ u, o = .next u ∧ t = u.setResponse .ack := by
  cases o with
  | next u => cases h; exact ⟨u, rfl, rfl⟩
  | fault f => cases h
  | refused r => cases h

theorem isCmd_iff {off : BitVec 10} : off.toNat = cmdOffset ↔ off = 0x008#10 :=
  ⟨fun h => BitVec.eq_of_toNat_eq h, fun h => by rw [h]; rfl⟩

/-- An accepted access to the register region is a word. -/
theorem width_of_accessOk {off : Nat} {n : Width} (h : accessOk off n = true) (hr : off < 0x100) : n = .w4 := by
  rcases accessOk_iff.1 h with h | h
  · exact h.2.1
  · omega

/-- Everything a step can do when it answers a next state. -/
theorem step_next {s t : State} (h : step s = .next t) : StepEffect s t := by
  simp only [step, takeNext] at h
  split at h
  · rename_i hin; cases h; exact .waited hin
  · rename_i i rest hin
    cases i with
    | read off n =>
      obtain ⟨r, d, hr⟩ := hostRead_next off n (s.setInputs rest)
      simp only [takeInput, hr] at h
      cases h
      exact .answered _ rest hin rfl r d
    | write off n v =>
      simp only [takeInput, hostWrite] at h
      split at h
      · cases h
        exact .answered _ rest hin rfl .error s.outside.draws
      · rename_i hok
        simp only [Bool.not_eq_true', Bool.not_eq_false] at hok
        split at h
        · rename_i hc
          have hw : n = .w4 := width_of_accessOk hok (by rw [hc]; decide)
          obtain rfl := isCmd_iff.1 hc
          subst hw
          obtain ⟨u, hu, rfl⟩ := acknowledge_next h
          simp only [issueCommand] at hu
          split at hu
          · rename_i i hd
            exact .command v rest hin i hd u (exec_next hu)
          · rename_i r hd
            rw [illegalCommand_eq] at hu
            cases hu
            refine .illegal v rest hin r hd _ ?_
            rcases s.seq.idle_or_busy with hq | hq <;> simp [hq]
        · rename_i hc
          split at h
          · rename_i hr
            have hw : n = .w4 := width_of_accessOk hok (by simpa using hr)
            subst hw
            cases h
            exact .register off v rest hin fun he => hc (isCmd_iff.2 he)
          · rename_i hr
            cases h
            exact .buffer off n v rest hin (by simpa using hr)
    | radioDone => cases h; exact .radio rest hin
    | reset => cases h; exact .resets rest hin

/-- The step of a command write (R90). -/
theorem step_command {s : State} {w : Word} {rest : List Input}
    (hin : s.outside.inputs = .write 0x008#10 .w4 w :: rest) :
    step s = acknowledge (issueCommand w (s.setInputs rest)) := by
  simp [step, takeNext, hin, takeInput, hostWrite, accessOk, inRegisters, fbStart, cmdOffset]

/-- While BUSY a command write, legal or not, only records ERR 10 (R230). -/
theorem issueCommand_busy {s : State} (hb : s.seq = .busy) (w : Word) : issueCommand w s = .next (s.setErr .busy) := by
  simp only [issueCommand]
  split
  · rename_i i _
    cases i <;> simp only [exec, execCfgLoad, execLinkInit, execFrame, execTransmit, whenIdle_busy hb]
  · rw [illegalCommand_eq, if_pos hb]

theorem issueCommand_not_refused (w : Word) (s : State) (r : Refusal) : issueCommand w s ≠ .refused r := by
  simp only [issueCommand]
  split
  · exact exec_not_refused _ s r
  · rw [illegalCommand_eq]; intro h; cases h

end Sys2Proof.Machine
end

