-- ==== Sys2Proof/Laws/Run.lean ====
section
/-! SUPPORT. What the whole-machine claims cite: when a step can stop, how a run unfolds, what leaves CB alone, and which changes
the invariant does not see. -/

namespace Sys2Proof.Machine

/-! ## The buffers and the lengths of what is written to them -/

@[simp] theorem frameHeader_length (len : Byte) (sum : BitVec 16) : (frameHeader len sum).length = 3 := rfl

theorem cbByte_stampHeader (m : Memory) (len : Byte) (sum : BitVec 16) (i : Nat) :
    cbByte (writeFb m (frameHeader len sum)) i = cbByte m i :=
  cbByte_writeFb _ _ (by simp) i

/-- A host write leaves CB alone (R46). -/
theorem cbByte_writeLanes (m : Memory) (v : Word) (off n i : Nat) :
    cbByte (writeLanes m v off 0 n) i = cbByte m i := by
  simp only [cbByte]
  refine if_ctx_congr Iff.rfl (fun hi => ?_) fun _ => rfl
  rw [get_writeLanes, if_neg]
  simp only [inFb_iff, cbStart]; omega

/-- The padded plaintext has R161's length. -/
theorem padded_length {m : Memory} {len : Byte} {bytes pad : List Byte} (hb : readFb m 0 len.toNat = .ok bytes)
    (hp : pad.length = padLen len.toNat - len.toNat) : (bytes ++ pad).length = padLen len.toNat := by
  have := padLen_bounds len.toNat
  rw [List.length_append, (readFb_ok hb).1, hp]; omega

/-- So has its ciphertext. -/
theorem encrypt_padded_length {m : Memory} {len : Byte} {bytes pad : List Byte}
    (hb : readFb m 0 len.toNat = .ok bytes) (hp : pad.length = padLen len.toNat - len.toNat) (k b : Block) :
    (encrypt k b (bytes ++ pad)).length = padLen len.toNat := by
  rw [encrypt_length _ _ _ (by rw [padded_length hb hp]; exact padLen_mod _), padded_length hb hp]

theorem padLen_fits (len : Byte) : (BitVec.ofNat 9 (padLen len.toNat)).toNat = padLen len.toNat := by
  have := padLen_le len
  rw [BitVec.toNat_ofNat, Nat.mod_eq_of_lt (by omega)]

/-- The IV counter below its top steps without wrapping (R163, R174). -/
theorem ivCtr_succ_toNat {c : Dword} (h : c ≠ BitVec.allOnes 64) : (c + 1#64).toNat = c.toNat + 1 := by
  have : c.toNat ≠ 2 ^ 64 - 1 := fun e => h (BitVec.eq_of_toNat_eq e)
  have := c.isLt
  rw [BitVec.toNat_add, show (1#64).toNat = 1 from rfl, Nat.mod_eq_of_lt (by omega)]

theorem ivBlock_toNat (c : Dword) : (ivBlock c).toNat = c.toNat * 2 ^ 64 + c.toNat := by
  simp only [ivBlock, BitVec.toNat_append]
  rw [← Nat.shiftLeft_add_eq_or_of_lt c.isLt, Nat.shiftLeft_eq]

/-! ## Steps and runs -/

/-- A step takes exactly one event. -/
theorem step_inputs {s t : State} (hst : step s = .next t) : t.outside.inputs = s.outside.inputs.tail := by
  cases step_next hst with
  | waited h => rw [h]; rfl
  | command w rest hin i hd u he => rw [hin]; cases he <;> rfl
  | register off v rest hin ho => rw [regWrite_eq, hin]; rfl
  | radio rest hin => rw [hin]; simp only [radioDone]; split <;> rfl
  | illegal w rest hin => rw [hin]; rfl
  | answered i rest hin => rw [hin]; rfl
  | buffer off n v rest hin => rw [hin]; rfl
  | resets rest hin => rw [hin]; rfl

theorem acknowledge_refused {o : Host.Outcome State Fault Refusal} {r : Refusal} (h : acknowledge o = .refused r) :
    o = .refused r := by
  cases o with
  | next t => simp [acknowledge, respond] at h
  | fault f => simp [acknowledge] at h
  | refused q => exact h

/-- Only a command write can stop. -/
theorem step_stops {s : State} (h : ∀ t, step s ≠ .next t) : ∃ (w : Word) (rest : List Input),
    s.outside.inputs = .write 0x008#10 .w4 w :: rest ∧ step s = acknowledge (issueCommand w (s.setInputs rest)) := by
  simp only [step, takeNext] at h
  split at h
  · exact absurd rfl (h _)
  · rename_i i rest hin
    cases i with
    | read off n => obtain ⟨r, d, hr⟩ := hostRead_next off n (s.setInputs rest); exact absurd hr (h _)
    | write off n v =>
      simp only [takeInput, hostWrite] at h
      split at h
      · exact absurd rfl (h _)
      · rename_i hok
        simp only [Bool.not_eq_true', Bool.not_eq_false] at hok
        split at h
        · rename_i hc
          have hw : n = .w4 := width_of_accessOk hok (by rw [hc]; decide)
          obtain rfl := isCmd_iff.1 hc
          subst hw
          exact ⟨v, rest, hin, step_command hin⟩
        · split at h
          · exact absurd rfl (h _)
          · exact absurd rfl (h _)
    | radioDone => exact absurd rfl (h _)
    | reset => exact absurd rfl (h _)

theorem core_run_zero (s : State) : Sys2Proof.core.run 0 s = .next s := rfl

theorem core_run_succ (k : Nat) (s : State) : Sys2Proof.core.run (k + 1) s =
    match step s with
    | .next t => Sys2Proof.core.run k t
    | .fault r => .fault r
    | .refused r => .refused r := by
  cases h : step s with
  | next t => have h : Sys2Proof.core.step s = .next t := h; simp only [Host.Core.run, h]
  | fault r => have h : Sys2Proof.core.step s = .fault r := h; simp only [Host.Core.run, h]
  | refused r => have h : Sys2Proof.core.step s = .refused r := h; simp only [Host.Core.run, h]

/-- A run's first event is not the reset, and neither is any later one. -/
theorem noReset_succ {n : Nat} {s : State} (h : NoReset (n + 1) s) : s.outside.inputs.head? ≠ some .reset := by
  intro hh
  cases hi : s.outside.inputs with
  | nil => simp [hi] at hh
  | cons a l =>
    rw [hi] at hh
    obtain rfl : a = .reset := by simpa using hh
    exact h .reset (by simp [hi]) rfl

theorem noReset_step {n : Nat} {s t : State} (h : NoReset (n + 1) s) (hst : step s = .next t) : NoReset n t := by
  intro i hi
  rw [step_inputs hst] at hi
  refine h i ?_
  cases hin : s.outside.inputs with
  | nil => simp [hin] at hi
  | cons a l => rw [hin] at hi; simpa using .inr hi

/-! ## The invariant -/

/-- The invariant sees neither ERR, nor the staging registers, nor what the agents did besides the radio's sends. -/
theorem Inv.of_unseen {s t : State} (hi : Inv s)
    (h : t = { s with
      err := t.err, cfgKeyLen := t.cfgKeyLen, cfgIvSet := t.cfgIvSet, cfgIvSeed := t.cfgIvSeed,
      cfgKeyStage := t.cfgKeyStage, cfgPower := t.cfgPower, cfgFreq := t.cfgFreq, cfgOwnAddr := t.cfgOwnAddr,
      cfgGwAddr := t.cfgGwAddr, outside := t.outside })
    (hs : t.outside.sends = s.outside.sends) : Inv t := by
  obtain ⟨h1, h2, h3, h4, h5, h6, h7, h8, h9, h10, h11, h12, h13⟩ := hi
  rw [h]
  exact ⟨h1, h2, h3, h4, h5, h6, h7, h8, h9, h10, h11, by rw [← hs] at h12; exact h12, h13⟩

end Sys2Proof.Machine
end

