-- ==== Sys2Proof/Tests/Slice0.lean ====
section
/-! SUPPORT. The model's own tests: expected values are the spec's (spec/95_test_vectors.md names in each comment), and one
witness for the hypotheses of each obligation. -/

namespace Sys2Proof.Tests

-- One proof at a time: each holds a large kernel evaluation.
set_option Elab.async false

open Sys2Proof Sys2Proof.Machine

/-! ## States the tests start from -/

/-- 16 bytes of 0xAB. -/
abbrev kab : Block := 0xabababababababababababababababab#128
/-- 00 01 .. 0f. -/
abbrev kf : Block := 0x000102030405060708090a0b0c0d0e0f#128

/-- T-CFG-1's base row, before CFG_LOAD. -/
def staged : State :=
  { State.reset with
    cfgKeyLen := 16#8, cfgIvSet := true, cfgIvSeed := 1#64, cfgKeyStage := kab, cfgPower := 20#32, cfgFreq := 915#32,
    cfgOwnAddr := 3#32, cfgGwAddr := 0#32 }

/-- A state whose link is present, with a live key and a counter. -/
def armed (key : Block) (ctr : Dword) : State :=
  { State.reset with
    cfgState := .valid, radioState := .ok, key := key, ivCtr := ctr, radioPower := 20#32, radioFreq := 915#32,
    radioOwnAddr := 3#32 }

/-- A state that waits for the radio. -/
def waiting (l : List Input) : State :=
  { (armed kab 2#64).setInputs l with
    seq := .busy, csHeld := true, result := .inProgress, txPadLen := 32#9, ivLast := ivBlock 2#64 }

/-- The state with these bytes in FB from index 0. -/
def State.putFb (s : State) (bs : List Byte) : State := s.setMem (writeFb s.mem bs)

/-- "NCSSG1,5,42,POWERON,3.50,0", the payload of S2. -/
def payload : List Byte :=
  [0x4e, 0x43, 0x53, 0x53, 0x47, 0x31, 0x2c, 0x35, 0x2c, 0x34, 0x32, 0x2c, 0x50] ++
  [0x4f, 0x57, 0x45, 0x52, 0x4f, 0x4e, 0x2c, 0x33, 0x2e, 0x35, 0x30, 0x2c, 0x30]

/-- A property of the next state. -/
def After (o : Host.Outcome State Fault Refusal) (p : State → Bool) : Bool :=
  match o with
  | .next t => p t
  | .fault _ => false
  | .refused _ => false

/-- What the host reads in STATUS afterwards. -/
def statusAfter (o : Host.Outcome State Fault Refusal) : Option Word :=
  match o with
  | .next t => some (statusWord t)
  | .fault _ => none
  | .refused _ => none

theorem fbWritten_range {s : State} {a b : Nat}
    (h : (List.range b).all (fun i => decide (i < a) || fbWritten s.mem i) = true) : FbWritten s a b := by
  intro i h1 h2
  have := List.all_eq_true.1 h i (List.mem_range.2 h2)
  rw [decide_eq_false (by omega)] at this
  simpa using this

theorem noReset_of_all {n : Nat} {s : State} (h : (s.outside.inputs.take n).all (fun i => i != .reset) = true) :
    NoReset n s := by
  intro i hi
  simpa using List.all_eq_true.1 h i hi

/-! ## Well-formedness: the one check, with a term it refuses -/

theorem test_wellFormed_refuses_linkInit_reserved_bits :
    (Instr.linkInit 0x02#8).wellFormed = false ∧ (Instr.linkInit 0x80#8).wellFormed = false ∧
    (Instr.linkInit 0x01#8).wellFormed = true := by decide

/-! ## Decoding (T-ENC-1): words written out from R91's fields -/

theorem test_decode_cfgLoad : decodeWord (0x0000#16 ++ 0x00#8 ++ 0x01#8) = .ok .cfgLoad := by decide
theorem test_decode_linkInit : decodeWord (0x0000#16 ++ 0x00#8 ++ 0x02#8) = .ok (.linkInit 0#8) ∧
    decodeWord (0x0000#16 ++ 0x01#8 ++ 0x02#8) = .ok (.linkInit 1#8) := by decide
theorem test_decode_frame : decodeWord (0x0000#16 ++ 0x1A#8 ++ 0x03#8) = .ok (.frame 26#8) ∧
    decodeWord 0x00000003#32 = .ok (.frame 0#8) := by decide
theorem test_decode_transmit : decodeWord (0x0000#16 ++ 0xFF#8 ++ 0x04#8) = .ok (.transmit 255#8) ∧
    decodeBytes [0x04#8, 0x28#8, 0x00#8, 0x00#8] = .ok (.transmit 40#8) := by decide
theorem test_decode_illegal :
    [0x00000101#32, 0x00000202#32, 0x00010003#32, 0x80000004#32, 0#32, 5#32, 0xFF#32, 0xFFFFFFFF#32].map legal =
      List.replicate 8 false := by decide
theorem test_decodeTableWord : decodeTableWord 32 0x1A03 = some (.frame 26#8) ∧
    decodeTableWord 32 0x10003 = none ∧ decodeTableWord 32 0x100000001 = none := by decide

/-! ## A command word as the first step after reset (T-ENC-1's last column, as STATUS) -/

theorem test_first_step_of_each_row :
    [0x00000001, 0x00000002, 0x00000003, 0x00000004, 0x00000005].map
      (fun w => statusAfter (step (State.reset.withFetchWord 32 w))) =
    [some 0x00000104#32, some 0x00000010#32, some 0x00000800#32, some 0x00002600#32, some 0x00000700#32] := by
  decide +kernel

/-! ## CFG_LOAD (T-CFG-1) -/

theorem test_cfgLoad_passes :
    After (exec .cfgLoad staged) (fun t => statusWord t == 0x00000002#32 && t.ivCtr == 1#64 &&
      t.radioPower == 0x14#32 && t.key == kab) = true := by decide
theorem test_cfgLoad_first_failure_only :
    [{ staged with cfgKeyLen := 15#8, cfgPower := 4#32 }, { staged with cfgIvSet := false, cfgFreq := 1#32 },
      { staged with cfgPower := 4#32 }, { staged with cfgPower := 0xFFFFFFFB#32 }, { staged with cfgPower := 24#32 },
      { staged with cfgFreq := 868#32 }, { staged with cfgFreq := 0xFFFFFE4F#32 },
      { staged with cfgOwnAddr := 255#32 }, { staged with cfgGwAddr := 0xFFFFFFFF#32 },
      { staged with cfgPower := 23#32, cfgFreq := 433#32, cfgOwnAddr := 254#32 }].map
      (fun s => statusAfter (exec .cfgLoad s)) =
    [some 0x104#32, some 0x204#32, some 0x304#32, some 0x304#32, some 0x304#32, some 0x404#32, some 0x404#32,
      some 0x504#32, some 0x504#32, some 0x002#32] := by decide +kernel

/-! ## LINK_INIT (T-LNK-1) -/

theorem test_linkInit_reports :
    statusAfter (exec (.linkInit 1#8) State.reset) = some 0x00000008#32 ∧
    statusAfter (exec (.linkInit 0#8) State.reset) = some 0x00000010#32 := by decide
theorem test_linkInit_once :
    statusAfter (exec (.linkInit 1#8) { State.reset with radioState := .failed }) = some 0x00000910#32 := by decide

/-! ## FRAME (T-FRM-1, T-FRM-5) -/

theorem test_frame_of_S2 :
    After (exec (.frame 26#8) (State.putFb State.reset payload)) (fun t =>
      readValue t 0x00C#10 .w4 == some 0x0005621A#32 && readValue t 0x100#10 .w4 == some 0x5362051A#32 &&
      statusWord t == 0#32) = true := by decide +kernel
theorem test_frame_bytes_are_unsigned :
    After (exec (.frame 6#8) (State.putFb State.reset [0, 0, 0, 0x80, 0xff, 0x01])) (fun t =>
      readValue t 0x00C#10 .w4 == some 0x00018006#32 &&
      (List.range 6).map (fbByte t.mem) == [some 6#8, some 1#8, some 0x80#8, some 0x80#8, some 0xff#8, some 1#8]) =
    true := by decide +kernel

/-! ## TRANSMIT (T-TX-1, T-TX-7): the bytes the padding does not reach -/

theorem test_transmit_of_S2 :
    After (exec (.transmit 26#8) (State.putFb (armed kab 1#64) ([0x1a, 0x05, 0x62] ++ payload.drop 3))) (fun t =>
      statusWord t == 0x0000306B#32 && t.ivCtr == 2#64 && t.txPadLen == 32#9 &&
      readValue t 0x024#10 .w4 == some 0x02000000#32 && readValue t 0x200#10 .w4 == some 0x25B30C66#32 &&
      readValue t 0x214#10 .w4 == some 0x7E51D8C4#32 && readValue t 0x218#10 .w2 == some 0x9533#32) = true := by
  decide +kernel
theorem test_transmit_refusals :
    statusAfter (exec (.transmit 26#8) State.reset) = some 0x00002600#32 ∧
    statusAfter (exec (.transmit 40#8) { armed kf (BitVec.allOnes 64) with result := .sent }) = some 0x00001B2A#32 := by
  decide +kernel

/-- T-TX-1's ciphertext with the reference padding of zeros, and T-CTR-1's wrap (P4). -/
theorem test_encrypt_with_zero_padding :
    (encrypt kab (ivBlock 2#64) ([0x1a, 0x05, 0x62] ++ payload.drop 3 ++ List.replicate 6 0#8)).drop 24 =
      [0x33, 0x95, 0xe8, 0x98, 0xba, 0xdf, 0x84, 0xb5] ∧
    aes128 kf (ctrBlock (ivBlock (BitVec.allOnes 64)) 1) = 0xc6a13b37878f5b826f4f8162a1c8d879#128 := by
  decide +kernel

/-! ## The bus (T-BUS-1 to T-BUS-3) -/

theorem test_bus_lanes :
    After (hostWrite 0x104#10 .w4 0x44332211#32 State.reset) (fun t =>
      readValue t 0x104#10 .w2 == some 0x2211#32 && readValue t 0x106#10 .w2 == some 0x4433#32 &&
      readValue t 0x107#10 .w1 == some 0x44#32 && readValue t 0x3FC#10 .w4 == some 0#32) = true := by decide +kernel
theorem test_bus_refusals :
    ([readValue State.reset 0x000#10 .w1, readValue State.reset 0x102#10 .w4, readValue State.reset 0x101#10 .w2] =
      [none, none, none]) ∧
    After (hostWrite 0x008#10 .w1 0x03#32 State.reset) (fun t => t == State.reset.setResponse .error) = true := by
  decide +kernel
theorem test_bus_registers :
    After (hostWrite 0x030#10 .w4 0x1FF#32 State.reset) (fun t => readValue t 0x030#10 .w4 == some 0xFF#32) = true ∧
    After (hostWrite 0x040#10 .w4 0x12345678#32 State.reset) (fun t => readValue t 0x040#10 .w4 == some 0#32 &&
      byteOf t.cfgKeyStage 0 == 0x78#8 && byteOf t.cfgKeyStage 3 == 0x12#8) = true := by decide +kernel

/-! ## The radio and reset (T-TX-1's last line, T-RST-2) -/

theorem test_radioDone : statusAfter (step (waiting [.radioDone])) = some 0x0000102A#32 := by decide
theorem test_reset_aborts : statusAfter (Sys2Proof.core.run 2 (waiting [.reset, .radioDone])) = some 0#32 := by decide

/-! ## AES-128 (T-AES-3, T-AES-4) -/

theorem test_aes : aes128 0x2b7e151628aed2a6abf7158809cf4f3c#128 0xf0f1f2f3f4f5f6f7f8f9fafbfcfdfeff#128 ^^^
      0x6bc1bee22e409f96e93d7e117393172a#128 = 0x874d6191b620e3261bef6864990db6ce#128 ∧
    roundKey (keyExpansion kab) 10 = 0xe09e4866bb12545b1551004408d45868#128 := by decide +kernel

/-! ## A host script (R98's LOADKEY, CHECK_ERR) -/

theorem test_script_loadKey : Script.loadKey kf =
    [.write 0x040#10 .w4 0x03020100#32, .write 0x044#10 .w4 0x07060504#32, .write 0x048#10 .w4 0x0B0A0908#32,
      .write 0x04C#10 .w4 0x0F0E0D0C#32, .write 0x030#10 .w4 16#32] := by decide +kernel

/-! ## Witnesses: each obligation's hypotheses, met together -/

/-- The write of a command word, as the next event. -/
abbrev cmd (w : Word) : Input := .write 0x008#10 .w4 w

/-- A configured state with n bytes of 0x41 in FB. -/
def loaded (n : Nat) : State := State.putFb (armed kf 1#64) (List.replicate n 0x41#8)

theorem witness_DecodeAndEncodeAgree : (Instr.linkInit 1#8).wellFormed = true ∧ (Instr.frame 255#8).wellFormed = true ∧
    decodeWord 0x0000FF03#32 = .ok (.frame 255#8) ∧
    decodeBytes [0x02#8, 0x01#8, 0x00#8, 0x00#8] = .ok (.linkInit 1#8) := by decide

theorem witness_OpcodeMapDecidesTheCommand :
    (0#32).extractLsb' 0 8 = 0#8 ∧ 5#8 ≤ (5#32).extractLsb' 0 8 ∧ 5#8 ≤ (0xFF#32).extractLsb' 0 8 := by decide

theorem witness_IllegalWordsOnlyRecordAnError :
    legal 0x00000005#32 = false ∧ State.reset.seq = .idle ∧ (waiting []).seq = .busy := by decide

theorem witness_StepRunsTheDecodedCommand :
    (∃ t, (State.reset.setInputs [cmd 0x1#32]).outside.inputs = cmd 0x1#32 :: [] ∧ decodeWord 0x1#32 = .ok .cfgLoad ∧
      exec .cfgLoad ((State.reset.setInputs [cmd 0x1#32]).setInputs []) = .next t) ∧
    (∃ f, (State.reset.setInputs [cmd 0x403#32]).outside.inputs = cmd 0x403#32 :: [] ∧
      decodeWord 0x403#32 = .ok (.frame 4#8) ∧
      exec (.frame 4#8) ((State.reset.setInputs [cmd 0x403#32]).setInputs []) = .fault f) :=
  ⟨⟨_, rfl, by decide, rfl⟩, ⟨_, rfl, by decide, rfl⟩⟩

theorem witness_ResetReadsFollowTheRegisterMap :
    (∀ off ∈ [0x004#10, 0x0FC#10, 0x300#10, 0x3FC#10], off.toNat % 4 = 0 ∧ off ≠ 0#10 ∧
      (off.toNat < 0x100 ∨ 0x300 ≤ off.toNat)) := by decide

theorem witness_ResetInputRestoresEveryElement :
    (waiting [.reset]).outside.inputs = .reset :: [] ∧ (waiting [.reset, .radioDone]).outside.inputs = .reset :: .radioDone :: [] ∧
    (∃ t, step (waiting [.radioDone]) = .next t ∧ (waiting [.radioDone]).outside.inputs.head? ≠ some .reset ∧
      (waiting [.radioDone]).cfgState ≠ .unconfigured) := ⟨rfl, rfl, _, rfl, by decide, by decide⟩

theorem witness_RegisterReadsFollowTheMap :
    (∀ off ∈ [0x070#10, 0x0FC#10], 0x070 ≤ off.toNat ∧ off.toNat < 0x100 ∧ off.toNat % 4 = 0) := by decide

/-- Each clause of the bus's rule, at the regions' edges. -/
theorem witness_BusErrorChangesNothing :
    ((0x0FF#10).toNat < 0x100 ∧ (0x0FF#10).toNat % 4 ≠ 0) ∧ ((0x000#10).toNat < 0x100 ∧ Width.w1 ≠ .w4) ∧
    (0x100 ≤ (0x101#10).toNat ∧ (0x101#10).toNat % Width.w2.bytes ≠ 0) ∧
    ((0x0FC#10).toNat < 0x100 ∧ (0x0FC#10).toNat % 4 = 0) ∧
    (0x100 ≤ (0x3FF#10).toNat ∧ (0x3FF#10).toNat % Width.w1.bytes = 0) ∧
    (∃ t, hostRead 0x3FF#10 .w1 State.reset = .next t) ∧ (∃ t, hostWrite 0x3FF#10 .w1 0#32 State.reset = .next t) :=
  ⟨by decide, by decide, by decide, by decide, by decide, ⟨_, rfl⟩, ⟨_, rfl⟩⟩

theorem witness_AlignedReadReturnsTheLanes :
    0x100 ≤ (0x100#10).toNat ∧ (0x100#10).toNat % Width.w2.bytes = 0 ∧ 1 < Width.w2.bytes ∧ (0x100#10).toNat + 1 < 0x300 ∧
    (loaded 4).mem.get ((0x100#10).toNat + 1) = some 0x41#8 ∧ Width.w2.bytes ≤ 3 ∧
    0x100 ≤ (0x300#10).toNat ∧ (0x300#10).toNat % Width.w4.bytes = 0 ∧ 0x300 ≤ (0x300#10).toNat + 0 := by decide

theorem witness_BufferWriteStoresTheLanes :
    (∀ off ∈ [0x100#10, 0x1FC#10], 0x100 ≤ off.toNat ∧ off.toNat < 0x200 ∧ off.toNat % Width.w4.bytes = 0) ∧
    ¬ ((0x1FC#10).toNat ≤ 0x200 ∧ 0x200 < (0x1FC#10).toNat + Width.w4.bytes) := by decide

theorem witness_WritesToReadOnlyPlacesAreIgnored :
    (∀ off ∈ [0x000#10, 0x004#10, 0x00C#10, 0x02C#10, 0x060#10, 0x0FC#10], off.toNat % 4 = 0 ∧
      (off.toNat < 0x008 ∨ (0x00C ≤ off.toNat ∧ off.toNat < 0x030) ∨ (0x060 ≤ off.toNat ∧ off.toNat < 0x100))) ∧
    (∀ off ∈ [0x200#10, 0x3FE#10], 0x200 ≤ off.toNat ∧ off.toNat % Width.w2.bytes = 0) := by decide

/-- Two placements, and the addresses at a window's ends. -/
theorem witness_WindowDecodesTheLowTenBits :
    Config.Platform.wf ⟨0x41000400, 32⟩ = true ∧ Config.Platform.wf ⟨0, 10⟩ = true ∧
    windowOffset ⟨0x41000400, 32⟩ 0x41000400 = some 0#10 ∧ windowOffset ⟨0x41000400, 32⟩ 0x410007FF = some 1023#10 ∧
    0x410003FF < 0x41000400 ∧ 0x41000400 + 1024 ≤ 0x41000800 := by decide

theorem witness_BusyRejectsEveryCommand : (waiting []).seq = .busy := rfl

/-- The checks met at the ends of their ranges. -/
theorem witness_CfgLoadCopiesOnSuccess :
    ∃ s : State, s.seq = .idle ∧ s.cfgState = .unconfigured ∧ ConfigPasses s ∧ s.cfgPower.toInt = 5 ∧
      s.cfgOwnAddr.toInt = 254 :=
  ⟨{ staged with cfgPower := 5#32, cfgOwnAddr := 254#32 }, rfl, rfl,
    ⟨by decide, by decide, by decide, by decide, by decide⟩, by decide, by decide⟩

/-- A state for each of the five failures, and one for the pass. -/
theorem witness_CfgLoadReportsTheFirstFailure :
    staged.seq = .idle ∧ staged.cfgState = .unconfigured ∧ ConfigPasses staged ∧
    { staged with cfgKeyLen := 17#8 }.cfgKeyLen ≠ 16#8 ∧
    ¬ ({ staged with cfgIvSeed := 0#64 }.cfgIvSet = true ∧ { staged with cfgIvSeed := 0#64 }.cfgIvSeed ≠ 0#64) ∧
    ¬ (5 ≤ { staged with cfgPower := 24#32 }.cfgPower.toInt ∧ { staged with cfgPower := 24#32 }.cfgPower.toInt ≤ 23) ∧
    ¬ ({ staged with cfgFreq := 434#32 }.cfgFreq.toInt = 433 ∨ { staged with cfgFreq := 434#32 }.cfgFreq.toInt = 866 ∨
      { staged with cfgFreq := 434#32 }.cfgFreq.toInt = 915) ∧
    ¬ (0 ≤ { staged with cfgGwAddr := 255#32 }.cfgGwAddr.toInt ∧ { staged with cfgGwAddr := 255#32 }.cfgGwAddr.toInt ≤ 254) :=
  ⟨rfl, rfl, ⟨by decide, by decide, by decide, by decide, by decide⟩, by decide, by decide, by decide, by decide, by decide⟩

theorem witness_CfgLoadIsAcceptedOnce :
    (armed kab 1#64).seq = .idle ∧ (armed kab 1#64).cfgState = .valid ∧
    (∃ t, step ((armed kab 1#64).setInputs [cmd 0x1#32]) = .next t ∧
      ((armed kab 1#64).setInputs [cmd 0x1#32]).outside.inputs.head? ≠ some .reset) ∧
    { State.reset with cfgState := CfgState.invalid }.cfgState = .invalid := ⟨rfl, rfl, ⟨_, rfl, by decide⟩, rfl⟩

theorem witness_LinkInitRecordsOnce :
    State.reset.seq = .idle ∧ State.reset.radioState = .unknown ∧ (armed kab 1#64).seq = .idle ∧
    (armed kab 1#64).radioState = .ok ∧ { State.reset with radioState := RadioState.failed }.radioState = .failed ∧
    (Instr.linkInit 0#8).wellFormed = true ∧ (Instr.linkInit 1#8).wellFormed = true :=
  ⟨rfl, rfl, rfl, rfl, rfl, rfl, rfl⟩

/-- CFG_LOAD, LINK_INIT ok and LINK_INIT fail move the states; both set, the link stays. -/
theorem witness_GateStatesHoldUntilReset :
    (∃ t, step (staged.setInputs [cmd 0x1#32]) = .next t ∧ t.cfgState ≠ .unconfigured) ∧
    (∃ t, step (staged.setInputs [cmd 0x102#32]) = .next t ∧ t.radioState = .ok) ∧
    (∃ t, step (staged.setInputs [cmd 0x2#32]) = .next t ∧ t.radioState = .failed) ∧
    (∃ t, step ((armed kab 1#64).setInputs [cmd 0x1#32]) = .next t ∧ linkPresent (armed kab 1#64) = true) :=
  ⟨⟨_, rfl, by decide⟩, ⟨_, rfl, by decide⟩, ⟨_, rfl, by decide⟩, ⟨_, rfl, by decide⟩⟩

theorem witness_FrameStampsTheHeader :
    (State.reset.seq = .idle ∧ 3 ≤ (3#8 : Byte).toNat ∧ FbWritten State.reset 3 (3#8 : Byte).toNat) ∧
    (loaded 255).seq = .idle ∧ 3 ≤ (255#8 : Byte).toNat ∧ FbWritten (loaded 255) 3 (255#8 : Byte).toNat :=
  ⟨⟨rfl, by decide, fbWritten_range (by decide)⟩, rfl, by decide, fbWritten_range (by decide +kernel)⟩

theorem witness_ShortFrameIsRefused : State.reset.seq = .idle ∧ (0#8 : Byte).toNat < 3 ∧ (2#8 : Byte).toNat < 3 := by
  decide

theorem witness_FrameOfAnUnwrittenByteFaults :
    (loaded 5).seq = .idle ∧ 3 ≤ 5 ∧ 5 < (26#8 : Byte).toNat ∧ fbWritten (loaded 5).mem 5 = false ∧
    FbWritten (loaded 5) 3 5 := ⟨rfl, by decide, by decide, by decide, fbWritten_range (by decide)⟩

/-- The two buffers differ in all three header bytes. -/
theorem witness_ChecksumIgnoresTheHeaderBytes :
    let s := loaded 4
    let m := writeFb s.mem [1, 2, 3]
    (∀ i, 3 ≤ i → fbByte m i = fbByte s.mem i) ∧ (∃ t, exec (.frame 4#8) s = .next t) ∧
    fbByte m 0 ≠ fbByte s.mem 0 ∧ fbByte m 2 ≠ fbByte s.mem 2 := by
  refine ⟨fun i hi => ?_, ⟨_, rfl⟩, by decide, by decide⟩
  rw [fbByte_writeFb _ _ _ (by simp), if_neg (by simp; omega)]

/-- The empty sum at L = 3 and the longest at L = 255. -/
theorem witness_FrameSumNeverWraps :
    (State.reset.seq = .idle ∧ 3 ≤ (3#8 : Byte).toNat ∧ FbWritten State.reset 3 (3#8 : Byte).toNat) ∧
    (loaded 255).seq = .idle ∧ 3 ≤ (255#8 : Byte).toNat ∧ FbWritten (loaded 255) 3 (255#8 : Byte).toNat :=
  ⟨⟨rfl, by decide, fbWritten_range (by decide)⟩, rfl, by decide, fbWritten_range (by decide +kernel)⟩

/-- Two states with different configurations, links and counters, the buffers alike. -/
theorem witness_FrameReadsOnlyTheFrameBuffer :
    let s := loaded 4
    let s' := { State.reset with mem := (loaded 4).mem }
    s'.seq = s.seq ∧ (∀ i, fbByte s'.mem i = fbByte s.mem i) ∧ s.seq = .idle ∧ 3 ≤ (4#8 : Byte).toNat ∧
    (∃ t, exec (.frame 4#8) s = .next t) ∧ s'.cfgState ≠ s.cfgState ∧ s'.ivCtr ≠ s.ivCtr :=
  ⟨rfl, fun _ => rfl, rfl, by decide, ⟨_, rfl⟩, by decide, by decide⟩

theorem witness_RepeatedFrameIsIdempotent :
    (loaded 4).mem.wf = true ∧ 3 ≤ (4#8 : Byte).toNat ∧ ∃ t, exec (.frame 4#8) (loaded 4) = .next t :=
  ⟨by decide, by decide, _, rfl⟩

/-- An accepted TRANSMIT at L = 0, with nothing in FB, and at L = 255; the second on the counter's last value. -/
theorem witness_TransmitEncryptsAndHandsOver :
    ((armed kf 1#64).seq = .idle ∧ linkPresent (armed kf 1#64) = true ∧ (armed kf 1#64).ivCtr ≠ BitVec.allOnes 64 ∧
      FbWritten (armed kf 1#64) 0 (0#8 : Byte).toNat) ∧
    ({ loaded 255 with ivCtr := 0xFFFFFFFFFFFFFFFE#64 }.ivCtr ≠ BitVec.allOnes 64 ∧
      FbWritten { loaded 255 with ivCtr := 0xFFFFFFFFFFFFFFFE#64 } 0 (255#8 : Byte).toNat) :=
  ⟨⟨rfl, by decide, by decide, fbWritten_range (by decide)⟩, by decide, fbWritten_range (by decide +kernel)⟩

theorem witness_TransmitWithoutLinkIsRefused : State.reset.seq = .idle ∧ linkPresent State.reset = false := by decide

theorem witness_IvExhaustionIsRefused :
    (armed kf (BitVec.allOnes 64)).seq = .idle ∧ linkPresent (armed kf (BitVec.allOnes 64)) = true ∧
    (armed kf (BitVec.allOnes 64)).ivCtr = BitVec.allOnes 64 ∧
    (∃ t, step ((armed kf (BitVec.allOnes 64)).setInputs [cmd 0x4#32]) = .next t ∧
      ((armed kf (BitVec.allOnes 64)).setInputs [cmd 0x4#32]).outside.inputs.head? ≠ some .reset) :=
  ⟨rfl, by decide, rfl, _, rfl, by decide⟩

theorem witness_TransmitOfAnUnwrittenByteFaults :
    (loaded 5).seq = .idle ∧ linkPresent (loaded 5) = true ∧ (loaded 5).ivCtr ≠ BitVec.allOnes 64 ∧
    5 < (26#8 : Byte).toNat ∧ fbWritten (loaded 5).mem 5 = false ∧ FbWritten (loaded 5) 0 5 :=
  ⟨rfl, by decide, by decide, by decide, by decide, fbWritten_range (by decide)⟩

/-- At the carry's edge: j = 15 stays below with 2^64 - 16 and carries with 2^64 - 15. -/
theorem witness_CounterBlocksCarryAcrossTheHalves :
    (15 < 16 ∧ (0xFFFFFFFFFFFFFFF0#64).toNat + 15 < 2 ^ 64) ∧ 2 ^ 64 ≤ (0xFFFFFFFFFFFFFFF1#64).toNat + 15 := by decide

theorem witness_CounterModeIgnoresPaddingAndInverts :
    ([0#8] : List Byte).length = ([0xFF#8] : List Byte).length ∧
    (List.replicate 15 0x41#8 ++ [0#8]).length % 16 = 0 := by decide

theorem witness_GatewayRecoversTheFrame :
    (loaded 255).seq = .idle ∧ 3 ≤ (255#8 : Byte).toNat ∧ FbWritten (loaded 255) 3 (255#8 : Byte).toNat ∧
    linkPresent (loaded 255) = true ∧ (loaded 255).ivCtr ≠ BitVec.allOnes 64 :=
  ⟨rfl, by decide, fbWritten_range (by decide +kernel), by decide, by decide⟩

theorem witness_RadioDoneEndsTheWait :
    ((waiting [.radioDone]).outside.inputs = .radioDone :: [] ∧ (waiting [.radioDone]).seq = .busy) ∧
    ((armed kab 2#64).setInputs [.radioDone]).outside.inputs = .radioDone :: [] ∧
    ((armed kab 2#64).setInputs [.radioDone]).seq = .idle := ⟨⟨rfl, rfl⟩, rfl, rfl⟩

theorem witness_RadioThatNeverCompletesHangs :
    (waiting [Script.readStatus, cmd 0x5#32]).seq = .busy ∧ AccessesOnly 2 (waiting [Script.readStatus, cmd 0x5#32]) :=
  ⟨rfl, by decide, by decide⟩

theorem witness_SimultaneousEventsInEitherOrder :
    (waiting []).seq = .busy ∧ linkPresent (waiting []) = true ∧ (waiting []).ivCtr ≠ BitVec.allOnes 64 ∧
    FbWritten (waiting []) 0 (0#8 : Byte).toNat := ⟨rfl, by decide, by decide, fbWritten_range (by decide)⟩

/-- A good state whose next event is an accepted TRANSMIT. -/
theorem witness_EveryStepKeepsTheInvariant :
    ∃ s t : State, Inv s ∧ step s = .next t ∧ t.seq = .busy := by
  refine ⟨(armed kf 1#64).setInputs [cmd 0x4#32], _, ?_, rfl, by decide⟩
  exact ⟨by decide, by decide, by decide, by decide, by decide, by decide, by decide, by decide, by decide, by decide,
    fun _ i => by simp [cbByte, armed, State.reset, Memory.get, Memory.unlisted], by decide, by decide⟩

/-- A run of an accepted TRANSMIT and its completion. -/
theorem witness_IvCounterCountsAcceptedTransmits :
    let s := (armed kf 1#64).setInputs [cmd 0x4#32, .radioDone]
    s.cfgState = .valid ∧ NoReset 2 s ∧ ∃ t, Sys2Proof.core.run 2 s = .next t ∧ t.outside.sends.length = 1 := by
  exact ⟨rfl, noReset_of_all rfl, _, rfl, rfl⟩

/-- Two accepted TRANSMITs with the completion between them. -/
theorem witness_AcceptedTransmitsNeverShareAnIvBlock :
    let s := (armed kf 1#64).setInputs [.radioDone]
    ∃ t u v : State, s.seq = .idle ∧ exec (.transmit 0#8) s = .next t ∧ t.seq = .busy ∧ NoReset 1 t ∧
      Sys2Proof.core.run 1 t = .next u ∧ u.seq = .idle ∧ exec (.transmit 0#8) u = .next v ∧ v.seq = .busy :=
  ⟨_, _, _, rfl, rfl, rfl, noReset_of_all rfl, rfl, rfl, rfl, rfl⟩

theorem witness_SeqMovesOnlyByTransmitAndCompletion :
    (∃ t, step ((armed kf 1#64).setInputs [cmd 0x4#32]) = .next t ∧
      ((armed kf 1#64).setInputs [cmd 0x4#32]).seq = .idle ∧ t.seq = .busy) ∧
    (∃ t, step (waiting [.radioDone]) = .next t ∧ (waiting [.radioDone]).seq = .busy ∧ t.seq = .idle) ∧
    (∃ t, step (waiting [.reset]) = .next t ∧ t.seq = .idle) :=
  ⟨⟨_, rfl, rfl, rfl⟩, ⟨_, rfl, rfl, rfl⟩, _, rfl, rfl⟩

theorem witness_ErrIsWrittenOnlyByCommands :
    (∃ t, step (State.reset.setInputs [cmd 0x5#32]) = .next t ∧ t.err ≠ State.reset.err) ∧
    (∃ t, step ({ State.reset with err := .illegalCmd }.setInputs [.reset]) = .next t ∧ t.err ≠ .illegalCmd) :=
  ⟨⟨_, rfl, by decide⟩, _, rfl, by decide⟩

theorem witness_KeyAndRadioParametersComeOnlyFromCfgLoad :
    let s := staged.setInputs [cmd 0x1#32]
    ∃ t, step s = .next t ∧ s.outside.inputs.head? ≠ some .reset ∧ t.key ≠ s.key ∧
      radioPort { t with csHeld := s.csHeld } ≠ radioPort s := ⟨_, rfl, by decide, by decide, by decide⟩

theorem witness_CipherBufferFollowsTheSends :
    (∃ t, step ((armed kf 1#64).setInputs [cmd 0x4#32]) = .next t ∧
      ((armed kf 1#64).setInputs [cmd 0x4#32]).outside.inputs.head? ≠ some .reset ∧ t.outside.sends ≠ []) ∧
    (∃ t, step ((armed kf 1#64).setInputs [cmd 0x1#32]) = .next t ∧ t.outside.sends = []) :=
  ⟨⟨_, rfl, by decide, by simp [State.sendPadded]⟩, _, rfl, rfl⟩

theorem witness_OnlyUnwrittenBytesStopTheMachine :
    (∀ i, (waiting [.radioDone]).outside.inputs.head? = some i → i.isCommand = false) ∧
    ((loaded 26).setInputs [cmd 0x1A04#32]).outside.inputs.head? = some (.write 0x008#10 .w4 0x1A04#32) ∧
    HostPrepared ((loaded 26).setInputs [cmd 0x1A04#32]) 0x1A04#32 :=
  ⟨fun i h => by cases h; rfl, rfl, fbWritten_range (a := 0) (b := 26) (by decide)⟩

theorem witness_MachineWaitsWithoutAnEvent : State.reset.outside.inputs = [] := rfl

theorem witness_RoundTransformsFollowTheirRules : (3 : Nat) < 4 ∧ (0 : Nat) < 4 := by decide

theorem witness_KeyScheduleFollowsItsRecurrence : 4 ≤ 4 ∧ 4 < 44 ∧ 43 < 44 := by decide

end Sys2Proof.Tests
end

section
/-! PROOFS. The status flags and the reset state (spec/10_state.md R24, R50). -/

namespace Sys2Proof.Machine

/-! ## Register accesses: the aligned words below 0x100 (R62, R65, R66) -/

theorem accessOk_register {off : BitVec 10} (ho : off.toNat < 0x100) (ha : off.toNat % 4 = 0) :
    accessOk off.toNat .w4 = true := accessOk_iff.2 (.inl ⟨ho, rfl, ha⟩)

theorem hostRead_register (s : State) {off : BitVec 10} (ho : off.toNat < 0x100) (ha : off.toNat % 4 = 0) :
    hostRead off .w4 s = .next (s.setResponse (.data (regRead s off.toNat))) := by
  simp [hostRead, accessOk_register ho ha, ho, respond]

theorem readValue_register (s : State) {off : BitVec 10} (ho : off.toNat < 0x100) (ha : off.toNat % 4 = 0) :
    readValue s off .w4 = some (regRead s off.toNat) := by
  simp [readValue, hostRead_register s ho ha]

/-- A write to a register other than CMD stores what `regWrite` says and is acknowledged. -/
theorem hostWrite_register (s : State) (v : Word) {off : BitVec 10} (ho : off.toNat < 0x100)
    (ha : off.toNat % 4 = 0) (hc : off ≠ 0x008#10) :
    hostWrite off .w4 v s = .next ((regWrite s off.toNat v).setResponse .ack) := by
  have hcmd : off.toNat ≠ cmdOffset := fun h => hc (isCmd_iff.1 h)
  simp [hostWrite, accessOk_register ho ha, hcmd, ho, respond]

theorem regRead_status (s : State) : regRead s 0x004 = statusWord s := rfl

theorem regWrite_status (s : State) (v : Word) : regWrite s 0x004 v = s := rfl

theorem readValue_status (s : State) : readValue s 0x004#10 .w4 = some (statusWord s) := by
  rw [readValue_register s (by decide) (by decide), show (0x004#10).toNat = 0x004 from rfl, regRead_status]

theorem hostWrite_status (s : State) (v : Word) : hostWrite 0x004#10 .w4 v s = .next (s.setResponse .ack) := by
  rw [hostWrite_register s v (by decide) (by decide) (by decide), show (0x004#10).toNat = 0x004 from rfl,
    regWrite_status]

/-! ## The fields of the STATUS word (R24)

A one-bit field is read off the concatenation's bits. A wider field is found by dropping the fields below it, after which
it is the low end of what is left. -/

theorem Seq.bit_eq (q : Seq) : q.bit = BitVec.ofBool (decide (q = .busy)) := by cases q <;> rfl

theorem linkPresent_eq (s : State) :
    linkPresent s = (decide (s.cfgState = .valid) && decide (s.radioState = .ok)) := by
  rw [Bool.eq_iff_iff, linkPresent_iff]; simp

section
variable (s : State)

theorem statusWord_busy : (statusWord s).getLsbD 0 = decide (s.seq = .busy) := by
  simp only [statusWord, BitVec.getLsbD_append, Seq.bit_eq]
  simp

theorem statusWord_cfgState : (statusWord s).extractLsb' 1 2 = s.cfgState.code := by
  simp (disch := decide) only [statusWord, BitVec.extractLsb'_append_eq_of_le]
  exact BitVec.extractLsb'_append_eq_right

theorem statusWord_radioState : (statusWord s).extractLsb' 3 2 = s.radioState.code := by
  simp (disch := decide) only [statusWord, BitVec.extractLsb'_append_eq_of_le]
  exact BitVec.extractLsb'_append_eq_right

theorem statusWord_linkPresent : (statusWord s).getLsbD 5 = linkPresent s := by
  simp only [statusWord, BitVec.getLsbD_append]
  simp

theorem statusWord_csHeld : (statusWord s).getLsbD 6 = s.csHeld := by
  simp only [statusWord, BitVec.getLsbD_append]
  simp

theorem statusWord_reservedBit : (statusWord s).getLsbD 7 = false := by
  simp only [statusWord, BitVec.getLsbD_append]
  simp

theorem statusWord_err : (statusWord s).extractLsb' 8 4 = s.err.code := by
  simp (disch := decide) only [statusWord, BitVec.extractLsb'_append_eq_of_le]
  exact BitVec.extractLsb'_append_eq_right

theorem statusWord_result : (statusWord s).extractLsb' 12 2 = s.result.code := by
  simp (disch := decide) only [statusWord, BitVec.extractLsb'_append_eq_of_le]
  exact BitVec.extractLsb'_append_eq_right

theorem statusWord_reservedHigh : (statusWord s).extractLsb' 14 18 = 0#18 := by
  simp (disch := decide) only [statusWord, BitVec.extractLsb'_append_eq_of_le]
  exact BitVec.extractLsb'_eq_self

end

/-! ## The buffers after reset (R48, R50) -/

theorem fbWritten_reset (i : Nat) : fbWritten State.reset.mem i = false := by
  simp [fbWritten, fbByte, State.reset, Memory.get, Memory.unlisted]

theorem cbByte_reset (i : Nat) : cbByte State.reset.mem i = none := by
  simp [cbByte, State.reset, Memory.get, Memory.unlisted]

end Sys2Proof.Machine

open Sys2Proof Sys2Proof.Machine

/-- Settles O9: the word read at 0x004 is `statusWord`, taken apart field by field; the code tables are finite. -/
theorem statusWordHoldsTheFlags : Obligations.StatusWordHoldsTheFlags := by
  unfold Obligations.StatusWordHoldsTheFlags
  refine ⟨fun s => ⟨statusWord s, readValue_status s, statusWord_busy s, statusWord_cfgState s,
    statusWord_radioState s, ?_, statusWord_csHeld s, statusWord_reservedBit s, statusWord_err s, statusWord_result s,
    statusWord_reservedHigh s⟩, hostWrite_status, by decide, by decide, by decide, by decide⟩
  rw [statusWord_linkPresent, linkPresent_eq]

/-- Settles O6: the elements are R50's table, a finite list of fixed values; no byte of either buffer has been written. -/
theorem resetHoldsTheSpecValues : Obligations.ResetHoldsTheSpecValues := by
  unfold Obligations.ResetHoldsTheSpecValues
  simp only [fbWritten_reset, cbByte_reset, implies_true, and_true]
  decide

end

section
/-! PROOFS. The opcode map and the illegal words (spec/30_encoding.md R91 to R96, R99). -/

namespace Sys2Proof

/-! ## A row's mask and match, field by field (R91, R94) -/

theorem append_eq_append_iff {m n : Nat} {a a' : BitVec m} {b b' : BitVec n} :
    a ++ b = a' ++ b' ↔ a = a' ∧ b = b' := by
  refine ⟨fun h => ⟨?_, ?_⟩, fun ⟨ha, hb⟩ => by rw [ha, hb]⟩
  · simpa only [BitVec.extractLsb'_append_eq_left] using congrArg (·.extractLsb' n m) h
  · simpa only [BitVec.extractLsb'_append_eq_right] using congrArg (·.extractLsb' 0 n) h

theorem OpRow.holds_iff {r : OpRow} {w : Word} : r.holds w = true ↔ w &&& r.mask = r.pattern := beq_iff_eq

/-- Every row of R94 tests all of RSV and OP, and the part of ARG that its mask names. -/
theorem OpRow.holds_iff_fields {r : OpRow} {argMask op : Byte}
    (hm : r.mask = BitVec.allOnes 16 ++ argMask ++ BitVec.allOnes 8) (hp : r.pattern = 0#16 ++ 0#8 ++ op) (w : Word) :
    r.holds w = true ↔ rsvField w = 0#16 ∧ argField w &&& argMask = 0#8 ∧ opField w = op := by
  rw [OpRow.holds_iff, hm, hp]
  conv_lhs => rw [word_eq_fields w]
  rw [BitVec.and_append, BitVec.and_append, append_eq_append_iff, append_eq_append_iff, BitVec.and_allOnes,
    BitVec.and_allOnes, and_assoc]

/-- The mask of LINK_INIT's row tests ARG[7:1]. -/
theorem argField_and_FE_iff (w : Word) : argField w &&& 0xFE#8 = 0#8 ↔ w.extractLsb' 9 7 = 0#7 := by
  have harg : argField w = w.extractLsb' 9 7 ++ w.extractLsb' 8 1 :=
    (BitVec.extractLsb'_append_extractLsb'_eq_extractLsb' (start₂ := 9) (start₁ := 8) (len₁ := 1) rfl).symm
  rw [harg, show 0xFE#8 = BitVec.allOnes 7 ++ 0#1 by decide, show 0#8 = 0#7 ++ 0#1 by decide, BitVec.and_append,
    append_eq_append_iff, BitVec.and_allOnes, BitVec.and_zero, and_iff_left rfl]

section
variable (w : Word)

theorem rowCfgLoad_holds_iff :
    rowCfgLoad.holds w = true ↔ rsvField w = 0#16 ∧ argField w = 0#8 ∧ opField w = 0x01#8 := by
  rw [OpRow.holds_iff_fields (argMask := BitVec.allOnes 8) (op := 0x01#8) (by decide) (by decide), BitVec.and_allOnes]

theorem rowLinkInit_holds_iff :
    rowLinkInit.holds w = true ↔ rsvField w = 0#16 ∧ w.extractLsb' 9 7 = 0#7 ∧ opField w = 0x02#8 := by
  rw [OpRow.holds_iff_fields (argMask := 0xFE#8) (op := 0x02#8) (by decide) (by decide), argField_and_FE_iff]

theorem rowFrame_holds_iff : rowFrame.holds w = true ↔ rsvField w = 0#16 ∧ opField w = 0x03#8 := by
  rw [OpRow.holds_iff_fields (argMask := 0#8) (op := 0x03#8) (by decide) (by decide), BitVec.and_zero,
    and_iff_right rfl]

theorem rowTransmit_holds_iff : rowTransmit.holds w = true ↔ rsvField w = 0#16 ∧ opField w = 0x04#8 := by
  rw [OpRow.holds_iff_fields (argMask := 0#8) (op := 0x04#8) (by decide) (by decide), BitVec.and_zero,
    and_iff_right rfl]

end

/-! ## The decoder reads the map (R94) -/

/-- The row of R94 that a command's words match. -/
def Instr.row : Instr → OpRow
  | .cfgLoad => rowCfgLoad
  | .linkInit _ => rowLinkInit
  | .frame _ => rowFrame
  | .transmit _ => rowTransmit

/-- A word decodes to the command whose row it matches, with ARG as the operand. The order in which the decoder tries
the rows does not matter, since words of different rows differ in OP. -/
theorem decodeWord_ok_iff {w : Word} {i : Instr} :
    decodeWord w = .ok i ↔ i.row.holds w = true ∧ argOf i = argField w := by
  constructor
  · intro h
    unfold decodeWord at h
    split at h
    next hr =>
      cases h
      exact ⟨hr, ((rowCfgLoad_holds_iff w).1 hr).2.1.symm⟩
    split at h
    next hr => cases h; exact ⟨hr, rfl⟩
    split at h
    next hr => cases h; exact ⟨hr, rfl⟩
    split at h
    next hr => cases h; exact ⟨hr, rfl⟩
    cases h
  · rintro ⟨hr, ha⟩
    cases i with
    | cfgLoad => exact if_pos hr
    | linkInit arg =>
      obtain ⟨hrsv, hhigh, hop⟩ := (rowLinkInit_holds_iff w).1 hr
      simp [decodeWord, rowCfgLoad_holds_iff, rowLinkInit_holds_iff, hrsv, hhigh, hop, ← ha, argOf]
    | frame len =>
      obtain ⟨hrsv, hop⟩ := (rowFrame_holds_iff w).1 hr
      simp [decodeWord, rowCfgLoad_holds_iff, rowLinkInit_holds_iff, rowFrame_holds_iff, hrsv, hop, ← ha, argOf]
    | transmit len =>
      obtain ⟨hrsv, hop⟩ := (rowTransmit_holds_iff w).1 hr
      simp [decodeWord, rowCfgLoad_holds_iff, rowLinkInit_holds_iff, rowFrame_holds_iff, rowTransmit_holds_iff, hrsv,
        hop, ← ha, argOf]

/-- R94's iff for a row, once the operand is known to be ARG. -/
theorem masked_iff_decodeWord {w : Word} (i : Instr) (ha : i.row.holds w = true → argOf i = argField w) :
    w &&& i.row.mask = i.row.pattern ↔ decodeWord w = .ok i := by
  rw [← OpRow.holds_iff, decodeWord_ok_iff, and_iff_left_of_imp ha]

/-! ## Illegal words (R95, R96) -/

theorem legal_eq_false_iff_decodeWord (w : Word) : legal w = false ↔ ∃ r, decodeWord w = .error r := by
  simp only [legal, opRows, List.any_cons, List.any_nil, decodeWord]
  cases rowCfgLoad.holds w with
  | true => simp
  | false =>
  cases rowLinkInit.holds w with
  | true => simp
  | false =>
  cases rowFrame.holds w with
  | true => simp
  | false => cases rowTransmit.holds w <;> simp

theorem legal_iff (w : Word) : legal w = true ↔ rsvField w = 0#16 ∧
    (opField w = 1#8 ∧ argField w = 0#8 ∨ opField w = 2#8 ∧ w.extractLsb' 9 7 = 0#7 ∨
      opField w = 3#8 ∨ opField w = 4#8) := by
  simp only [legal, opRows, List.any_cons, List.any_nil, Bool.or_false, Bool.or_eq_true, rowCfgLoad_holds_iff,
    rowLinkInit_holds_iff, rowFrame_holds_iff, rowTransmit_holds_iff]
  tauto

theorem byte_cases (b : Byte) : 5#8 ≤ b ∨ b = 0#8 ∨ b = 1#8 ∨ b = 2#8 ∨ b = 3#8 ∨ b = 4#8 := by bv_omega

/-- R96's four cases. -/
theorem legal_eq_false_iff (w : Word) : legal w = false ↔
    opField w = 0#8 ∨ 5#8 ≤ opField w ∨ rsvField w ≠ 0#16 ∨ (opField w = 1#8 ∧ argField w ≠ 0#8) ∨
      (opField w = 2#8 ∧ w.extractLsb' 9 7 ≠ 0#7) := by
  rw [← Bool.not_eq_true, legal_iff]
  rcases byte_cases (opField w) with h | h | h | h | h | h
  · have hne : ∀ k : Byte, k < 5#8 → opField w ≠ k := fun k hk he => by bv_omega
    simp [h, hne 1#8, hne 2#8, hne 3#8, hne 4#8]
  all_goals simp [h, imp_iff_not_or]

theorem decodeWord_unlisted {w : Word} (h : opField w = 0#8 ∨ 5#8 ≤ opField w) : ∃ r, decodeWord w = .error r :=
  (legal_eq_false_iff_decodeWord w).1 ((legal_eq_false_iff w).2 (h.imp_right .inl))

namespace Machine

/-- An illegal word only records its error. -/
theorem issueCommand_of_illegal {w : Word} (h : legal w = false) (s : State) :
    issueCommand w s = .next (s.setErr (if s.seq = .busy then .busy else .illegalCmd)) := by
  obtain ⟨r, hr⟩ := (legal_eq_false_iff_decodeWord w).1 h
  simp only [issueCommand, hr, illegalCommand_eq]

end Machine

end Sys2Proof

open Sys2Proof Sys2Proof.Machine

/-- Settles O3: each row's mask and match is what the decoder tests, and no two rows share an OP value. -/
theorem opcodeMapDecidesTheCommand : Obligations.OpcodeMapDecidesTheCommand := by
  unfold Obligations.OpcodeMapDecidesTheCommand
  intro w
  exact ⟨masked_iff_decodeWord .cfgLoad fun h => ((rowCfgLoad_holds_iff w).1 h).2.1.symm,
    masked_iff_decodeWord (.linkInit _) fun _ => rfl,
    masked_iff_decodeWord (.frame _) fun _ => rfl,
    masked_iff_decodeWord (.transmit _) fun _ => rfl,
    decodeWord_unlisted⟩

/-- Settles O4: R96's cases are the complement of the map, and an illegal word reaches only `illegalCommand`. -/
theorem illegalWordsOnlyRecordAnError : Obligations.IllegalWordsOnlyRecordAnError := by
  unfold Obligations.IllegalWordsOnlyRecordAnError
  refine fun w => ⟨legal_eq_false_iff w, legal_eq_false_iff_decodeWord w, fun h s => ⟨fun hq => ?_, fun hq => ?_⟩,
    rfl, rfl⟩
  · simp [issueCommand_of_illegal h, hq, State.setErr]
  · simp [issueCommand_of_illegal h, hq, State.setErr]

/-- Settles O1: nine fixed words, run through the decoder and the encoder. -/
theorem sampleWordsDecode : Obligations.SampleWordsDecode := by
  unfold Obligations.SampleWordsDecode
  decide

end

section
/-! PROOFS. The configuration gate (spec/40_config.md R120 to R129). -/

namespace Sys2Proof.Machine

theorem CfgState.ne_unconfigured_iff {c : CfgState} : c ≠ .unconfigured ↔ c = .valid ∨ c = .invalid := by
  cases c <;> simp

theorem RadioState.ne_unknown_iff {r : RadioState} : r ≠ .unknown ↔ r = .ok ∨ r = .failed := by
  cases r <;> simp

/-! ## What CFG_LOAD and LINK_INIT do when IDLE (R120, R129) -/

section
variable {s : State} (hq : s.seq = .idle)
include hq

theorem exec_cfgLoad_passed (hc : s.cfgState = .unconfigured) (hv : ConfigPasses s) :
    exec .cfgLoad s = .next s.latchConfig := by
  simp only [exec, execCfgLoad, whenIdle_idle hq, hc, (validate_ok_iff s).2 hv]

theorem exec_cfgLoad_failed (hc : s.cfgState = .unconfigured) {e : ErrCode} (hv : validate s = e) (he : e ≠ .ok) :
    exec .cfgLoad s = .next ((s.setCfgState .invalid).setErr e) := by
  simp only [exec, execCfgLoad, whenIdle_idle hq, hc, hv, raiseErr_eq]

theorem exec_cfgLoad_configured (hc : s.cfgState ≠ .unconfigured) :
    exec .cfgLoad s = .next (s.setErr .badState) := by
  simp only [exec, execCfgLoad, whenIdle_idle hq]
  split
  · contradiction
  · rfl
  · rfl

theorem exec_linkInit_unknown (hr : s.radioState = .unknown) (arg : Byte) :
    exec (.linkInit arg) s = .next ((s.setRadioState (reportedState arg)).setErr .ok) := by
  simp only [exec, execLinkInit, whenIdle_idle hq, hr]

theorem exec_linkInit_reported (hr : s.radioState ≠ .unknown) (arg : Byte) :
    exec (.linkInit arg) s = .next (s.setErr .badState) := by
  simp only [exec, execLinkInit, whenIdle_idle hq]
  split
  · contradiction
  · rfl
  · rfl

end

/-- `Validate()` in the words of R121 to R125. -/
theorem validate_eq (s : State) : validate s =
    if s.cfgKeyLen ≠ 16#8 then .cfgKey
    else if ¬ (s.cfgIvSet = true ∧ s.cfgIvSeed ≠ 0#64) then .cfgIv
    else if ¬ (5 ≤ s.cfgPower.toInt ∧ s.cfgPower.toInt ≤ 23) then .cfgPower
    else if ¬ (s.cfgFreq.toInt = 433 ∨ s.cfgFreq.toInt = 866 ∨ s.cfgFreq.toInt = 915) then .cfgFreq
    else if ¬ ((0 ≤ s.cfgOwnAddr.toInt ∧ s.cfgOwnAddr.toInt ≤ 254) ∧
      0 ≤ s.cfgGwAddr.toInt ∧ s.cfgGwAddr.toInt ≤ 254) then .cfgAddr
    else .ok := by
  simp only [validate, ne_eq, ← keyLenOk_iff, ← ivSeedOk_iff, ← powerOk_iff, ← freqOk_iff, ← addrsOk_iff,
    Bool.not_eq_true, Bool.not_eq_true']

/-! ## What moves CFG_STATE (R25, R128) -/

/-- Only CFG_LOAD from UNCONFIGURED moves CFG_STATE. -/
theorem CommandEffect.cfgState_eq_or {s t : State} {i : Instr} (h : CommandEffect s i t) :
    t.cfgState = s.cfgState ∨ s.cfgState = .unconfigured ∧ i = .cfgLoad := by
  cases h with
  | cfgFailed _ hc _ => exact .inr ⟨hc, rfl⟩
  | cfgLoaded _ hc _ => exact .inr ⟨hc, rfl⟩
  | busy | cfgAgain | linkAgain | linkReported | frameShort | framed | linkAbsent | exhausted | accepted =>
    exact .inl rfl

theorem regWrite_cfgState (s : State) (off : Nat) (v : Word) : (regWrite s off v).cfgState = s.cfgState := by
  rw [regWrite_eq]

theorem radioDone_cfgState (s : State) : (radioDone s).cfgState = s.cfgState := by
  simp only [radioDone]
  split <;> rfl

/-- Without a reset, a step that moves CFG_STATE takes a CFG_LOAD write while UNCONFIGURED. -/
theorem step_cfgState_eq_or {s t : State} (h : step s = .next t) (hr : s.outside.inputs.head? ≠ some .reset) :
    t.cfgState = s.cfgState ∨ s.cfgState = .unconfigured ∧
      ∃ w rest, s.outside.inputs = .write 0x008#10 .w4 w :: rest ∧ decodeWord w = .ok .cfgLoad := by
  cases step_next h with
  | command w rest hin i hd u he =>
    refine he.cfgState_eq_or.imp id ?_
    rintro ⟨hc, rfl⟩
    exact ⟨hc, w, rest, hin, hd⟩
  | register off v => exact .inl (regWrite_cfgState _ off.toNat v)
  | radio rest => exact .inl (radioDone_cfgState _)
  | resets rest hin => exact absurd (by rw [hin]; rfl) hr
  | waited | answered | illegal | buffer => exact .inl rfl

end Sys2Proof.Machine

open Sys2Proof Sys2Proof.Machine

/-- Settles O20: a passed validation latches the configuration, and `latchConfig` is R126's copies. -/
theorem cfgLoadCopiesOnSuccess : Obligations.CfgLoadCopiesOnSuccess := by
  unfold Obligations.CfgLoadCopiesOnSuccess
  exact fun s hq hc hv => exec_cfgLoad_passed hq hc hv

/-- Settles O21: each clause picks its branch of `validate_eq`; the pass is `ConfigPasses`. -/
theorem cfgLoadReportsTheFirstFailure : Obligations.CfgLoadReportsTheFirstFailure := by
  unfold Obligations.CfgLoadReportsTheFirstFailure
  intro s hq hs
  have fails {code : ErrCode} (hv : validate s = code) (he : code ≠ .ok) := exec_cfgLoad_failed hq hs hv he
  refine ⟨fun ha => fails ?_ (by decide), fun ha hb => fails ?_ (by decide), fun ha hb hc => fails ?_ (by decide),
    fun ha hb hc hd => fails ?_ (by decide), fun ha hb hc hd he => fails ?_ (by decide),
    fun ha hb hc hd he => ⟨s.latchConfig, exec_cfgLoad_passed hq hs ⟨ha, hb, hc, hd, he⟩, rfl, rfl⟩, rfl⟩
  · rw [validate_eq, if_pos ha]
  · rw [validate_eq, if_neg (not_not.2 ha), if_pos hb]
  · rw [validate_eq, if_neg (not_not.2 ha), if_neg (not_not.2 hb), if_pos hc]
  · rw [validate_eq, if_neg (not_not.2 ha), if_neg (not_not.2 hb), if_neg (not_not.2 hc), if_pos hd]
  · rw [validate_eq, if_neg (not_not.2 ha), if_neg (not_not.2 hb), if_neg (not_not.2 hc), if_neg (not_not.2 hd),
      if_pos he]

/-- Settles O22: CFG_LOAD reads UNCONFIGURED before anything else, and no step but a reset returns to it. -/
theorem cfgLoadIsAcceptedOnce : Obligations.CfgLoadIsAcceptedOnce := by
  unfold Obligations.CfgLoadIsAcceptedOnce
  refine ⟨fun s hq hc => exec_cfgLoad_configured hq (CfgState.ne_unconfigured_iff.2 hc), fun s t h hr hc => ?_, rfl⟩
  exact (step_cfgState_eq_or h hr).resolve_right fun hmoved => CfgState.ne_unconfigured_iff.2 hc hmoved.1

/-- Settles O23: LINK_INIT reads only RADIO_STATE once IDLE, and its record is `reportedState`. -/
theorem linkInitRecordsOnce : Obligations.LinkInitRecordsOnce := by
  unfold Obligations.LinkInitRecordsOnce
  exact ⟨by decide, by decide, rfl, fun s arg hq _ => ⟨fun hr => exec_linkInit_unknown hq hr arg,
    fun hr => exec_linkInit_reported hq (RadioState.ne_unknown_iff.2 hr) arg⟩⟩

end

section
/-! PROOFS. The frame builder (spec/41_frame.md R140 to R145). -/

namespace Sys2Proof.Machine

/-! ## The header over FB[0..3) (R142) -/

theorem fbByte_stampHeader (m : Memory) (len : Byte) (sum : BitVec 16) (i : Nat) :
    fbByte (writeFb m (frameHeader len sum)) i = if i < 3 then (frameHeader len sum)[i]? else fbByte m i :=
  fbByte_writeFb m (frameHeader len sum) i (by simp)

theorem fbWritten_stampHeader (m : Memory) (len : Byte) (sum : BitVec 16) {i : Nat} (hi : i < 3) :
    fbWritten (writeFb m (frameHeader len sum)) i = true := by
  simp [fbWritten, fbByte_stampHeader, hi]

theorem get_stampHeader_of_outside (m : Memory) (len : Byte) (sum : BitVec 16) {a : Nat}
    (ha : ¬ (0x100 ≤ a ∧ a < 0x103)) : (writeFb m (frameHeader len sum)).get a = m.get a :=
  (get_writeFb m _ a).trans (if_neg ha)

/-! ## What FRAME does when IDLE (R140, R145) -/

theorem exec_frame_short {s : State} (hq : s.seq = .idle) {len : Byte} (hl : len.toNat < 3) :
    exec (.frame len) s = .next (s.setErr .badLen) := by
  simp only [exec, execFrame, whenIdle_idle hq]
  exact if_pos hl

/-- With its payload written, FRAME stamps R141's checksum. -/
theorem exec_frame_of_written {s : State} (hq : s.seq = .idle) {len : Byte} (hl : 3 ≤ len.toNat)
    (hw : FbWritten s 3 len.toNat) :
    exec (.frame len) s = .next (s.stampFrame len (BitVec.ofNat 16 (frameSum s len.toNat))) := by
  have hread := readFb_of_written (m := s.mem) (i := 3) (n := len.toNat - 3) fun k hk => hw _ (by omega) (by omega)
  rw [execFrame_stamps hq hl hread, checksum_of_readFb hread]

end Sys2Proof.Machine

open Sys2Proof Sys2Proof.Machine

/-- Settles O25: FRAME answers `stampFrame`, whose memory differs only in the three header bytes. -/
theorem frameStampsTheHeader : Obligations.FrameStampsTheHeader := by
  unfold Obligations.FrameStampsTheHeader
  intro s len hq hl hw sum
  refine ⟨s.stampFrame len sum, exec_frame_of_written hq hl hw, ?_, ?_, ?_,
    fun i hi => fbWritten_stampHeader s.mem len sum hi, rfl, rfl, rfl,
    fun a ha => get_stampHeader_of_outside s.mem len sum ha, rfl⟩
  · exact fbByte_stampHeader s.mem len sum 0
  · exact fbByte_stampHeader s.mem len sum 1
  · exact fbByte_stampHeader s.mem len sum 2

/-- Settles O26: the length is checked before anything is read or written. -/
theorem shortFrameIsRefused : Obligations.ShortFrameIsRefused := by
  unfold Obligations.ShortFrameIsRefused
  exact ⟨fun s len hq hl => exec_frame_short hq hl, rfl⟩

end

section
/-! PROOFS. The secure transmitter: the padded length and the exhausted IV counter (spec/42_transmit.md R161, R174). -/

namespace Sys2Proof.Machine

theorem padLen_eq (l : Nat) : padLen l = l + (16 - l % 16) := rfl

/-! ## The exhausted IV counter (R174) -/

/-- R174's condition: the link is present and the IV counter is at its top. -/
def IvExhausted (s : State) : Prop := linkPresent s = true ∧ s.ivCtr = BitVec.allOnes 64

theorem exec_transmit_exhausted {s : State} (hq : s.seq = .idle) (hx : IvExhausted s) (len : Byte) :
    exec (.transmit len) s = .next (s.releaseCs.setErr .ivExhausted) := by
  obtain ⟨hl, hc⟩ := hx
  simp [exec, execTransmit, whenIdle_idle hq, hl, hc]

/-- No command leaves R174's condition: CFG_LOAD and LINK_INIT act only on a gate that has no link yet, and TRANSMIT is
accepted only with the counter below its top. -/
theorem CommandEffect.ivExhausted {s t : State} {i : Instr} (he : CommandEffect s i t) (hx : IvExhausted s) :
    IvExhausted t := by
  obtain ⟨hvalid, hok⟩ := (linkPresent_iff s).1 hx.1
  cases he with
  | cfgFailed _ hc _ => simp [hvalid] at hc
  | cfgLoaded _ hc _ => simp [hvalid] at hc
  | linkReported _ _ hr => simp [hok] at hr
  | accepted _ _ _ _ _ _ hv => exact absurd hx.2 hv
  | busy | cfgAgain | linkAgain | frameShort | framed | linkAbsent | exhausted => exact hx

theorem regWrite_ivExhausted {s : State} (hx : IvExhausted s) (off : Nat) (v : Word) :
    IvExhausted (regWrite s off v) := by
  rw [regWrite_eq]
  exact hx

theorem radioDone_ivExhausted {s : State} (hx : IvExhausted s) : IvExhausted (radioDone s) := by
  simp only [radioDone]
  split <;> exact hx

/-- Only a reset leaves R174's condition. -/
theorem step_ivExhausted {s t : State} (h : step s = .next t) (hr : s.outside.inputs.head? ≠ some .reset)
    (hx : IvExhausted s) : IvExhausted t := by
  cases step_next h with
  | command w rest hin i hd u he => exact he.ivExhausted (s := s.setInputs rest) hx
  | register off v rest => exact regWrite_ivExhausted (s := s.setInputs rest) hx off.toNat v
  | radio rest => exact radioDone_ivExhausted (s := s.setInputs rest) hx
  | resets rest hin => exact absurd (by rw [hin]; rfl) hr
  | waited | answered | illegal | buffer => exact hx

end Sys2Proof.Machine

open Sys2Proof Sys2Proof.Machine

/-- Settles O35: the counter's check comes after the link's and writes only CS_HELD and ERR, and its condition is kept by
every step but a reset. -/
theorem ivExhaustionIsRefused : Obligations.IvExhaustionIsRefused := by
  unfold Obligations.IvExhaustionIsRefused
  exact ⟨fun s len hq hl hc => exec_transmit_exhausted hq ⟨hl, hc⟩ len,
    fun s t hl hc h hr => step_ivExhausted h hr ⟨hl, hc⟩, rfl⟩

/-- Settles O32: the formula is `padLen` itself; the ten lengths of the examples are evaluated. -/
theorem paddedLengthIsTheNextBlock : Obligations.PaddedLengthIsTheNextBlock := by
  unfold Obligations.PaddedLengthIsTheNextBlock
  exact ⟨fun l => ⟨padLen_eq l, padLen_mod l, padLen_bounds l⟩, by decide⟩

end

section
/-! PROOFS. Commands while BUSY and the radio's completion (spec/60_exceptions.md R230, R234; 42_transmit.md R169). -/

namespace Sys2Proof.Machine

/-! ## A command while BUSY (R230) -/

/-- Every command's meaning begins with the BUSY check. -/
theorem exec_busy {s : State} (hb : s.seq = .busy) (i : Instr) : exec i s = .next (s.setErr .busy) := by
  cases i with
  | cfgLoad => simp only [exec, execCfgLoad, whenIdle_busy hb]
  | linkInit arg => simp only [exec, execLinkInit, whenIdle_busy hb]
  | frame len => simp only [exec, execFrame, whenIdle_busy hb]
  | transmit len => simp only [exec, execTransmit, whenIdle_busy hb]

/-- The bus write that issues a command (R32, R90). -/
theorem hostWrite_cmd (s : State) (w : Word) : hostWrite 0x008#10 .w4 w s = acknowledge (issueCommand w s) := by
  have hok : accessOk (0x008#10).toNat .w4 = true := accessOk_register (by decide) (by decide)
  simp only [hostWrite, hok, Bool.not_true, Bool.false_eq_true, if_false]
  exact if_pos (isCmd_iff.2 rfl)

/-! ## The completion (R169, R234) -/

theorem radioDone_busy {s : State} (hb : s.seq = .busy) : radioDone s =
    { s with
      seq := .idle, csHeld := false, result := .sent,
      outside := { s.outside with dones := s.outside.dones + 1 } } := by
  simp only [radioDone, hb]

theorem radioDone_idle {s : State} (hq : s.seq = .idle) : radioDone s =
    { s with outside := { s.outside with dones := s.outside.dones + 1 } } := by
  simp only [radioDone, hq]

theorem step_radioDone {s : State} {rest : List Input} (hin : s.outside.inputs = .radioDone :: rest) :
    step s = .next (radioDone (s.setInputs rest)) := by
  simp only [step, takeNext, hin, takeInput]

end Sys2Proof.Machine

open Sys2Proof Sys2Proof.Machine

/-- Settles O19: every meaning, an illegal word's included, begins with the BUSY check, and the bus write of a command
adds only its acknowledgement. -/
theorem busyRejectsEveryCommand : Obligations.BusyRejectsEveryCommand := by
  unfold Obligations.BusyRejectsEveryCommand
  refine fun s hb => ⟨issueCommand_busy hb, exec_busy hb, fun w => ?_, rfl⟩
  rw [hostWrite_cmd, issueCommand_busy hb]
  rfl

/-- Settles O40: the step of `RadioDone` is `radioDone`, which tests only SEQ. -/
theorem radioDoneEndsTheWait : Obligations.RadioDoneEndsTheWait := by
  unfold Obligations.RadioDoneEndsTheWait
  refine fun s rest hin => ⟨fun hb => ?_, fun hq => ?_⟩
  · rw [step_radioDone hin, radioDone_busy (s := s.setInputs rest) hb]
    rfl
  · rw [step_radioDone hin, radioDone_idle (s := s.setInputs rest) hq]
    rfl

end

section
/-! PROOFS. Decode and encode agree (spec/30_encoding.md R91 to R94, 20_memory.md R64). -/

namespace Sys2Proof

/-! ## Command words (R91) -/

/-- A word decodes to a command exactly when its three fields are the command's and the operand is one R93 allows. -/
theorem decodeWord_ok_iff_fields {w : Word} {i : Instr} : decodeWord w = .ok i ↔
    rsvField w = 0#16 ∧ argField w = argOf i ∧ opField w = opcode i ∧ i.wellFormed = true := by
  rw [decodeWord_ok_iff]
  cases i with
  | cfgLoad =>
    rw [Instr.row, rowCfgLoad_holds_iff]
    exact ⟨fun ⟨⟨hrsv, harg, hop⟩, _⟩ => ⟨hrsv, harg, hop, rfl⟩,
      fun ⟨hrsv, harg, hop, _⟩ => ⟨⟨hrsv, harg, hop⟩, harg.symm⟩⟩
  | linkInit arg =>
    rw [Instr.row, rowLinkInit_holds_iff, ← argField_and_FE_iff, Instr.wellFormed, beq_iff_eq]
    constructor
    · rintro ⟨⟨hrsv, hhigh, hop⟩, rfl⟩; exact ⟨hrsv, rfl, hop, hhigh⟩
    · rintro ⟨hrsv, rfl, hop, hhigh⟩; exact ⟨⟨hrsv, hhigh, hop⟩, rfl⟩
  | frame len =>
    rw [Instr.row, rowFrame_holds_iff]
    exact ⟨fun ⟨⟨hrsv, hop⟩, ha⟩ => ⟨hrsv, ha.symm, hop, rfl⟩, fun ⟨hrsv, ha, hop, _⟩ => ⟨⟨hrsv, hop⟩, ha.symm⟩⟩
  | transmit len =>
    rw [Instr.row, rowTransmit_holds_iff]
    exact ⟨fun ⟨⟨hrsv, hop⟩, ha⟩ => ⟨hrsv, ha.symm, hop, rfl⟩, fun ⟨hrsv, ha, hop, _⟩ => ⟨⟨hrsv, hop⟩, ha.symm⟩⟩

theorem decodeWord_encode {i : Instr} (hw : i.wellFormed = true) : decodeWord (encode i) = .ok i := by
  obtain ⟨hop, harg, hrsv⟩ : Laws.EncodesOpcode.Statement i := Laws.EncodesOpcode.fields_of_append _ _
  exact decodeWord_ok_iff_fields.2 ⟨hrsv, harg, hop, hw⟩

theorem encode_of_decodeWord {w : Word} {i : Instr} (h : decodeWord w = .ok i) : encode i = w := by
  obtain ⟨hrsv, harg, hop, -⟩ := decodeWord_ok_iff_fields.1 h
  rw [encode, word_eq_fields w, hrsv, harg, hop]

theorem wellFormed_of_decodeWord {w : Word} {i : Instr} (h : decodeWord w = .ok i) : i.wellFormed = true :=
  (decodeWord_ok_iff_fields.1 h).2.2.2

/-! ## The four bytes of a word (R64) -/

/-- The bytes of a word in lane order. -/
def lanesOf (w : Word) : List Byte := (List.range 4).map fun k => w.extractLsb' (8 * k) 8

theorem lanesOf_eq (w : Word) :
    lanesOf w = [w.extractLsb' 0 8, w.extractLsb' 8 8, w.extractLsb' 16 8, w.extractLsb' 24 8] := rfl

theorem wordOfLanes_extract (w : Word) :
    wordOfLanes (w.extractLsb' 0 8) (w.extractLsb' 8 8) (w.extractLsb' 16 8) (w.extractLsb' 24 8) = w := by
  rw [wordOfLanes, BitVec.extractLsb'_append_extractLsb'_eq_extractLsb' (start₂ := 24) (start₁ := 16) (len₁ := 8) rfl,
    BitVec.extractLsb'_append_extractLsb'_eq_extractLsb' (start₂ := 16) (start₁ := 8) (len₁ := 8) rfl,
    BitVec.extractLsb'_append_extractLsb'_eq_extractLsb' (start₂ := 8) (start₁ := 0) (len₁ := 8) rfl]
  exact BitVec.extractLsb'_eq_self

theorem lanesOf_wordOfLanes (b0 b1 b2 b3 : Byte) : lanesOf (wordOfLanes b0 b1 b2 b3) = [b0, b1, b2, b3] := by
  simp (disch := decide) only [lanesOf_eq, wordOfLanes, BitVec.extractLsb'_append_eq_of_le]
  rw [BitVec.extractLsb'_append_eq_right, BitVec.extractLsb'_append_eq_right, BitVec.extractLsb'_append_eq_right]
  exact congrArg (fun b => [b0, b1, b2, b]) BitVec.extractLsb'_eq_self

theorem decodeBytes_lanesOf (w : Word) : decodeBytes (lanesOf w) = decodeWord w := by
  rw [lanesOf_eq, decodeBytes, wordOfLanes_extract]

/-- Only the four bytes of a command's word decode. -/
theorem decodeBytes_ok_iff {bs : List Byte} {i : Instr} :
    decodeBytes bs = .ok i ↔ ∃ w, bs = lanesOf w ∧ decodeWord w = .ok i := by
  constructor
  · intro h
    unfold decodeBytes at h
    split at h
    next b0 b1 b2 b3 => exact ⟨_, (lanesOf_wordOfLanes b0 b1 b2 b3).symm, h⟩
    next => cases h
  · rintro ⟨w, rfl, h⟩
    rw [decodeBytes_lanesOf, h]

end Sys2Proof

open Sys2Proof Sys2Proof.Machine

/-- Settles O2: a word is its three fields and a byte string of four is the lanes of one word, so that each direction
compares the fields with those `encode` writes. -/
theorem decodeAndEncodeAgree : Obligations.DecodeAndEncodeAgree := by
  unfold Obligations.DecodeAndEncodeAgree
  refine ⟨fun i hw => ⟨decodeWord_encode hw, ?_⟩,
    fun w i h => ⟨encode_of_decodeWord h, wellFormed_of_decodeWord h⟩, fun bs i h => ?_⟩
  · exact (decodeBytes_lanesOf (encode i)).trans (decodeWord_encode hw)
  · obtain ⟨w, rfl, hd⟩ := decodeBytes_ok_iff.1 h
    exact ⟨by rw [← encode_of_decodeWord hd]; rfl, wellFormed_of_decodeWord hd⟩

end

section
/-! PROOFS. Host reads and writes of the window (spec/10_state.md sections 2 to 9, 20_memory.md sections 1 to 3). -/

namespace Sys2Proof.Machine

/-! ## The register map (R49, R52) -/

theorem mem_regMap_of_regAt {off : Nat} {r : Reg} (h : regAt off = some r) : (off, r) ∈ regMap := by
  obtain ⟨⟨off', r'⟩, hfind, rfl⟩ := Option.map_eq_some_iff.1 h
  obtain rfl : off' = off := by simpa using List.find?_some hfind
  exact List.mem_of_find?_eq_some hfind

theorem regMap_aligned : ∀ row ∈ regMap, row.1 < 0x070 ∧ row.1 % 4 = 0 := by decide

theorem regAt_aligned {off : Nat} {r : Reg} (h : regAt off = some r) : off < 0x070 ∧ off % 4 = 0 :=
  regMap_aligned _ (mem_regMap_of_regAt h)

/-- Above RADIO_GWADDR the register region is reserved. -/
theorem regAt_reserved {off : Nat} (h : 0x070 ≤ off) : regAt off = none := by
  cases hr : regAt off with
  | none => rfl
  | some r => have := (regAt_aligned hr).1; omega

/-- A mapped register reads as `readReg` says. -/
theorem readValue_of_regAt (s : State) {off : BitVec 10} {r : Reg} (h : regAt off.toNat = some r) :
    readValue s off .w4 = some (readReg s r) := by
  obtain ⟨ho, ha⟩ := regAt_aligned h
  rw [readValue_register s (by omega) ha, regRead, h]

theorem readValue_of_reserved (s : State) {off : BitVec 10} (ho : off.toNat < 0x100) (ha : off.toNat % 4 = 0)
    (h : regAt off.toNat = none) : readValue s off .w4 = some 0#32 := by
  rw [readValue_register s ho ha, regRead, h]

/-- A mapped register other than CMD is written as `writeReg` says. -/
theorem hostWrite_of_regAt (s : State) (v : Word) {off : BitVec 10} {r : Reg} (h : regAt off.toNat = some r)
    (hc : r ≠ .cmd) : hostWrite off .w4 v s = .next ((writeReg s v r).setResponse .ack) := by
  obtain ⟨ho, ha⟩ := regAt_aligned h
  have hne : off ≠ 0x008#10 := by
    rintro rfl
    exact hc (Option.some.inj h).symm
  rw [hostWrite_register s v (by omega) ha hne, regWrite, h]

theorem regAt_ivLast : ∀ k : Fin 4, regAt (BitVec.ofNat 10 (0x020 + 4 * k.val)).toNat = some (.ivLast k) := by decide

theorem regAt_cfgKey : ∀ k : Fin 4, regAt (BitVec.ofNat 10 (0x040 + 4 * k.val)).toNat = some (.cfgKey k) := by decide

/-! ## The values of the registers -/

/-- Lane i of word k of a string is byte 4k + i (R43). -/
theorem extract_blockWord (b : Block) (k : Nat) {i : Nat} (hi : i < 4) :
    (blockWord b k).extractLsb' (8 * i) 8 = byteOf b (4 * k + i) := by
  refine (lane_wordOfBytes _ i hi).trans ?_
  interval_cases i <;> rfl

theorem zero_append_eq_setWidth (v : BitVec 8) : 0#24 ++ v = v.setWidth 32 := by
  apply BitVec.eq_of_toNat_eq
  rw [BitVec.toNat_append, BitVec.toNat_setWidth, Nat.mod_eq_of_lt (by omega)]
  simp

theorem zero_append_ofBool (b : Bool) : 0#31 ++ BitVec.ofBool b = if b = true then 1#32 else 0#32 := by
  cases b <;> rfl

/-- After reset every register but ID reads 0. -/
theorem readReg_reset {r : Reg} (h : r ≠ .id) : readReg State.reset r = 0#32 := by
  cases r with
  | id => exact absurd rfl h
  | ivLast k => revert k; decide
  | _ => rfl

theorem regAt_id {off : Nat} (h : regAt off = some .id) : off = 0 := by
  have hid : ∀ row ∈ regMap, row.2 = .id → row.1 = 0 := by decide
  exact hid _ (mem_regMap_of_regAt h) rfl

/-! ## Writes that are ignored (R46, R49, R66) -/

/-- The registers that a write through the bus changes: the staging registers (R36). -/
def Reg.isStaging : Reg → Bool
  | .cfgKeyLen | .cfgIvSet | .cfgIvSeedLo | .cfgIvSeedHi | .cfgKey _ | .cfgPower | .cfgFreq | .cfgOwnAddr
  | .cfgGwAddr => true
  | .id | .status | .cmd | .frameInfo | .txInfo | .ivCtrLo | .ivCtrHi | .ivLast _ | .radioPower | .radioFreq
  | .radioOwnAddr | .radioGwAddr => false

theorem writeReg_of_not_staging (s : State) (v : Word) {r : Reg} (h : r.isStaging = false) : writeReg s v r = s := by
  cases r with
  | cfgKeyLen | cfgIvSet | cfgIvSeedLo | cfgIvSeedHi | cfgKey | cfgPower | cfgFreq | cfgOwnAddr | cfgGwAddr => cases h
  | id | status | cmd | frameInfo | txInfo | ivCtrLo | ivCtrHi | ivLast | radioPower | radioFreq | radioOwnAddr
  | radioGwAddr => rfl

theorem regMap_staging : ∀ row ∈ regMap, row.2.isStaging = true → 0x030 ≤ row.1 ∧ row.1 < 0x060 := by decide

theorem regWrite_outside_staging (s : State) (v : Word) {off : Nat} (h : off < 0x030 ∨ 0x060 ≤ off) :
    regWrite s off v = s := by
  rw [regWrite]
  split
  next r hr =>
    refine writeReg_of_not_staging s v (Bool.eq_false_iff.2 fun hs => ?_)
    have := regMap_staging _ (mem_regMap_of_regAt hr) hs
    omega
  next => rfl

theorem writeLanes_of_ge (m : Memory) (v : Word) {off : Nat} (i n : Nat) (h : 0x200 ≤ off) :
    writeLanes m v off i n = m := by
  induction n generalizing off i with
  | zero => rfl
  | succ n ih =>
    have hfb : inFb off = false := Bool.eq_false_iff.2 fun hf => by have := (inFb_iff.1 hf).2; omega
    rw [writeLanes, hfb, if_neg Bool.false_ne_true, ih _ (by omega)]

/-! ## Accesses beyond the registers (R63, R65, R66) -/

theorem Width.bytes_cases (n : Width) : n.bytes = 1 ∨ n.bytes = 2 ∨ n.bytes = 4 := by cases n <;> simp [Width.bytes]

/-- No aligned access crosses a boundary of 256 bytes. -/
theorem aligned_within {off i : Nat} {n : Width} (ha : off % n.bytes = 0) (hi : i < n.bytes) :
    (off + i) / 256 = off / 256 := by
  rcases n.bytes_cases with h | h | h <;> rw [h] at ha hi <;> omega

section
variable (s : State) {off : BitVec 10} {n : Width}

theorem hostRead_buffer (ho : 0x100 ≤ off.toNat) (ha : off.toNat % n.bytes = 0) : hostRead off n s =
    .next ((s.setDraws (readLanes s.mem off.toNat n.bytes s.outside.draws).2).setResponse
      (.data (wordOfBytes (readLanes s.mem off.toNat n.bytes s.outside.draws).1))) := by
  have hok : accessOk off.toNat n = true := accessOk_iff.2 (.inr ⟨ho, ha⟩)
  have hreg : ¬ inRegisters off.toNat = true := fun h => by have := inRegisters_iff.1 h; omega
  simp only [hostRead, hok, if_neg hreg, Bool.not_true, Bool.false_eq_true, if_false, respond]

theorem hostWrite_buffer (v : Word) (ho : 0x100 ≤ off.toNat) (ha : off.toNat % n.bytes = 0) : hostWrite off n v s =
    .next ((s.setMem (writeLanes s.mem v off.toNat 0 n.bytes)).setResponse .ack) := by
  have hok : accessOk off.toNat n = true := accessOk_iff.2 (.inr ⟨ho, ha⟩)
  have hreg : ¬ inRegisters off.toNat = true := fun h => by have := inRegisters_iff.1 h; omega
  have hcmd : ¬ off.toNat = cmdOffset := by simp only [cmdOffset]; omega
  simp only [hostWrite, hok, if_neg hreg, if_neg hcmd, Bool.not_true, Bool.false_eq_true, if_false, respond]

/-! ## The bus's answer (R12, R62, R63, R223) -/

theorem access_refused (v : Word) (h : accessOk off.toNat n = false) :
    hostRead off n s = .next (s.setResponse .error) ∧ hostWrite off n v s = .next (s.setResponse .error) := by
  simp [hostRead, hostWrite, h, respond]

variable {s} {t : State} (hok : accessOk off.toNat n = true)
include hok

theorem hostRead_response (h : hostRead off n s = .next t) : ∃ v, t.outside.response = .data v := by
  simp only [hostRead, hok, Bool.not_true, Bool.false_eq_true, if_false] at h
  split at h <;> cases h <;> exact ⟨_, rfl⟩

theorem hostWrite_response {v : Word} (h : hostWrite off n v s = .next t) : t.outside.response = .ack := by
  simp only [hostWrite, hok, Bool.not_true, Bool.false_eq_true, if_false] at h
  split at h
  · obtain ⟨u, -, rfl⟩ := acknowledge_next h; rfl
  · split at h <;> cases h <;> rfl

end

/-! ## The lanes of a read (R64, R65) -/

section
variable (m : Memory) (off d : Nat) (n : Width)

theorem readWord_written {i : Nat} {b : Byte} (hi : i < n.bytes) (ho : 0x100 ≤ off) (hlt : off + i < 0x300)
    (hb : m.get (off + i) = some b) : (wordOfBytes (readLanes m off n.bytes d).1).extractLsb' (8 * i) 8 = b := by
  have hbuf : (inFb (off + i) || inCb (off + i)) = true := by
    rw [Bool.or_eq_true, inFb_iff, inCb_iff]; omega
  refine (lane_wordOfBytes _ i (by rcases n.bytes_cases with h | h | h <;> omega)).trans ?_
  rw [List.getD, (readLanes_getElem? m off n.bytes d i hi).1 b hbuf hb]
  rfl

theorem readWord_upper {i : Nat} (hi : i < n.bytes) (ho : 0x300 ≤ off + i) :
    (wordOfBytes (readLanes m off n.bytes d).1).extractLsb' (8 * i) 8 = 0#8 := by
  have hbuf : (inFb (off + i) || inCb (off + i)) = false := by
    rw [Bool.eq_false_iff, Ne, Bool.or_eq_true, inFb_iff, inCb_iff]; omega
  refine (lane_wordOfBytes _ i (by rcases n.bytes_cases with h | h | h <;> omega)).trans ?_
  rw [List.getD, (readLanes_getElem? m off n.bytes d i hi).2 hbuf]
  rfl

theorem readWord_above {i : Nat} (hi : n.bytes ≤ i) (h4 : i < 4) :
    (wordOfBytes (readLanes m off n.bytes d).1).extractLsb' (8 * i) 8 = 0#8 := by
  refine (lane_wordOfBytes _ i h4).trans ?_
  rw [List.getD, List.getElem?_eq_none (by rwa [readLanes_length])]
  rfl

end

theorem word_eq_zero_of_lanes {v : Word} (h : ∀ i, i < 4 → v.extractLsb' (8 * i) 8 = 0#8) : v = 0#32 :=
  calc
    v = wordOfLanes (v.extractLsb' (8 * 0) 8) (v.extractLsb' (8 * 1) 8) (v.extractLsb' (8 * 2) 8)
          (v.extractLsb' (8 * 3) 8) := (wordOfLanes_extract v).symm
    _ = wordOfLanes 0#8 0#8 0#8 0#8 := by rw [h 0 (by decide), h 1 (by decide), h 2 (by decide), h 3 (by decide)]
    _ = 0#32 := by decide

/-- The reserved quarter reads 0 (R49). -/
theorem readValue_upper (s : State) {off : BitVec 10} (ho : 0x300 ≤ off.toNat) (ha : off.toNat % 4 = 0) :
    readValue s off .w4 = some 0#32 := by
  rw [readValue, hostRead_buffer s (n := .w4) (by omega) ha]
  exact congrArg some (word_eq_zero_of_lanes fun i hi => readWord_upper s.mem _ _ .w4 hi (by omega))

/-! ## The keys are not read (R40, R44, R237) -/

/-- What a read returns, in one equation. -/
theorem readValue_eq (s : State) (off : BitVec 10) (n : Width) : readValue s off n =
    if accessOk off.toNat n = true then
      if inRegisters off.toNat = true then some (regRead s off.toNat)
      else some (wordOfBytes (readLanes s.mem off.toNat n.bytes s.outside.draws).1)
    else none := by
  cases hok : accessOk off.toNat n with
  | false => simp [readValue, hostRead, hok, respond]
  | true => cases hreg : inRegisters off.toNat <;> simp [readValue, hostRead, hok, hreg, respond]

theorem regRead_of_otherKeys (s : State) (k ks : Block) (off : Nat) :
    regRead { s with key := k, cfgKeyStage := ks } off = regRead s off := by
  simp only [regRead]
  split
  next r _ => cases r <;> rfl
  next => rfl

/-! ## The window (R60) -/

theorem windowOffset_eq_some_iff {p : Config.Platform} {addr : Nat} {off : BitVec 10} :
    windowOffset p addr = some off ↔ addr = p.sfeBase + off.toNat := by
  have hoff := off.isLt
  rw [windowOffset]
  split
  next h =>
    rw [Option.some.injEq, ← BitVec.toNat_inj, BitVec.toNat_ofNat, Nat.mod_eq_of_lt (by omega)]
    omega
  next h => exact iff_of_false (by simp) (by omega)

end Sys2Proof.Machine

open Sys2Proof Sys2Proof.Machine

/-- Settles O7: a mapped register other than ID reads its reset value 0; an unmapped offset and the upper quarter read
0. -/
theorem resetReadsFollowTheRegisterMap : Obligations.ResetReadsFollowTheRegisterMap := by
  unfold Obligations.ResetReadsFollowTheRegisterMap
  refine ⟨readValue_of_regAt _ (r := .id) rfl, fun off ha hne ho => ho.elim (fun hlow => ?_) (readValue_upper _ · ha)⟩
  cases hr : regAt off.toNat with
  | none => exact readValue_of_reserved _ hlow ha hr
  | some r =>
    have hid : r ≠ .id := by
      rintro rfl
      exact hne (BitVec.eq_of_toNat_eq (regAt_id hr))
    rw [readValue_of_regAt _ hr, readReg_reset hid]

/-- Settles O10: each clause is the map's row; CFG_KEYLEN and CFG_IVSET are widened with zeros. -/
theorem registerReadsFollowTheMap : Obligations.RegisterReadsFollowTheMap := by
  unfold Obligations.RegisterReadsFollowTheMap
  intro s
  have reads {off : BitVec 10} (r : Reg) (h : regAt off.toNat = some r) := readValue_of_regAt s h
  refine ⟨reads .id rfl, reads .status rfl, reads .cmd rfl, reads .frameInfo rfl, reads .txInfo rfl,
    readValue_of_reserved s (by decide) (by decide) (by decide), reads .ivCtrLo rfl, reads .ivCtrHi rfl,
    fun k => ⟨_, reads (.ivLast k) (regAt_ivLast k), fun i hi => extract_blockWord s.ivLast k.val hi⟩, ?_, ?_,
    reads .cfgIvSeedLo rfl, reads .cfgIvSeedHi rfl, fun k => reads (.cfgKey k) (regAt_cfgKey k), reads .cfgPower rfl,
    reads .cfgFreq rfl, reads .cfgOwnAddr rfl, reads .cfgGwAddr rfl, reads .radioPower rfl, reads .radioFreq rfl,
    reads .radioOwnAddr rfl, reads .radioGwAddr rfl,
    fun off hlo hhi ha => readValue_of_reserved s hhi ha (regAt_reserved hlo)⟩
  · rw [← zero_append_eq_setWidth]; exact reads .cfgKeyLen rfl
  · rw [← zero_append_ofBool]; exact reads .cfgIvSet rfl

/-- Settles O11: the premises of the first two clauses are the negation of `accessOk` and `accessOk`; an access the bus
takes answers data or an acknowledgement. -/
theorem busErrorChangesNothing : Obligations.BusErrorChangesNothing := by
  unfold Obligations.BusErrorChangesNothing
  refine ⟨fun s off n v h => ?_, fun s t off n v h => ?_, fun off n ha => ?_⟩
  · refine access_refused s v (Bool.eq_false_iff.2 fun hok => ?_)
    rcases accessOk_iff.1 hok with ⟨hlt, rfl, ha⟩ | ⟨hge, ha⟩
    · simp only [ne_eq, not_true_eq_false, false_or] at h; omega
    · omega
  · have hok : accessOk off.toNat n = true := accessOk_iff.2 h
    refine ⟨fun hr => ?_, fun hw => ?_⟩
    · obtain ⟨d, hd⟩ := hostRead_response hok hr
      simp [hd]
    · simp [hostWrite_response hok hw]
  · have hpos : 0 < n.bytes := by rcases n.bytes_cases with h | h | h <;> omega
    rw [Nat.add_sub_assoc hpos, aligned_within ha (by omega)]

/-- Settles O12: byte i of the answer is what `readLanes` found at `off + i`. -/
theorem alignedReadReturnsTheLanes : Obligations.AlignedReadReturnsTheLanes := by
  unfold Obligations.AlignedReadReturnsTheLanes
  exact fun s off n ho ha => ⟨_, _, hostRead_buffer s ho ha,
    fun i hi => ⟨fun b hlt hb => readWord_written s.mem _ _ n hi ho hlt hb, readWord_upper s.mem _ _ n hi⟩,
    fun i hi h4 => readWord_above s.mem _ _ n hi h4⟩

/-- Settles O13: a read is refused, or answers a register or the lanes; no case stores anything in the SFE. -/
theorem readsChangeNoSfeState : Obligations.ReadsChangeNoSfeState := by
  unfold Obligations.ReadsChangeNoSfeState
  exact fun s off n => hostRead_next off n s

/-- Settles O14: the write is `writeLanes`, and an aligned access to FB stays in FB. -/
theorem bufferWriteStoresTheLanes : Obligations.BufferWriteStoresTheLanes := by
  unfold Obligations.BufferWriteStoresTheLanes
  intro s off n v ho hlt ha
  refine ⟨_, hostWrite_buffer s v ho ha, fun i hi => ?_, fun a hout => ?_, rfl⟩
  · have hin := aligned_within ha hi
    have hbyte : fbByte (writeLanes s.mem v off.toNat 0 n.bytes) (off.toNat - 0x100 + i) =
        some (v.extractLsb' (8 * i) 8) := by
      have haddr : 0x100 + (off.toNat - 0x100 + i) = off.toNat + i := by omega
      rw [fbByte, if_pos (by simp only [Config.fbBytes]; omega), haddr, get_writeLanes,
        if_pos ⟨by omega, inFb_iff.2 (by omega)⟩, Nat.zero_add, Nat.add_sub_cancel_left]
      rfl
    exact ⟨hbyte, by simp [fbWritten, hbyte]⟩
  · exact (get_writeLanes ..).trans (if_neg fun h => hout h.1)

/-- Settles O15: outside 0x030..0x05F `regWrite` changes nothing, and from CB up no lane reaches FB. -/
theorem writesToReadOnlyPlacesAreIgnored : Obligations.WritesToReadOnlyPlacesAreIgnored := by
  unfold Obligations.WritesToReadOnlyPlacesAreIgnored
  rintro s off n v (⟨rfl, ha, ho⟩ | ⟨ho, ha⟩)
  · have hcmd : off ≠ 0x008#10 := by
      rintro rfl
      revert ho; decide
    rw [hostWrite_register s v (by omega) ha hcmd, regWrite_outside_staging s v (by omega)]
    rfl
  · rw [hostWrite_buffer s v (by omega) ha, writeLanes_of_ge _ _ _ _ ho]
    rfl

/-- Settles O16: each clause is the map's row and its case of `writeReg`. -/
theorem stagingWritesAreStored : Obligations.StagingWritesAreStored := by
  unfold Obligations.StagingWritesAreStored
  intro s v
  have writes {off : BitVec 10} (r : Reg) (h : regAt off.toNat = some r) (hc : r ≠ .cmd) := hostWrite_of_regAt s v h hc
  refine ⟨writes .cfgKeyLen rfl (by decide), writes .cfgIvSet rfl (by decide),
    ⟨s.cfgIvSeed.extractLsb' 32 32 ++ v, writes .cfgIvSeedLo rfl (by decide), ?_, ?_⟩,
    ⟨v ++ s.cfgIvSeed.extractLsb' 0 32, writes .cfgIvSeedHi rfl (by decide), ?_, ?_⟩,
    fun k => ⟨setBlockWord s.cfgKeyStage k.val v, writes (.cfgKey k) (regAt_cfgKey k) (by simp),
      fun i hi => byteOf_blockOf _ i hi⟩,
    writes .cfgPower rfl (by decide), writes .cfgFreq rfl (by decide), writes .cfgOwnAddr rfl (by decide),
    writes .cfgGwAddr rfl (by decide)⟩
  · exact BitVec.extractLsb'_append_eq_right
  · exact BitVec.extractLsb'_append_eq_left
  · exact BitVec.extractLsb'_append_eq_left
  · exact BitVec.extractLsb'_append_eq_right

/-- Settles O17: no register reads a key, and the buffers are elsewhere. -/
theorem keyIsNeverReadable : Obligations.KeyIsNeverReadable := by
  unfold Obligations.KeyIsNeverReadable
  intro s k ks off n
  rw [readValue_eq, readValue_eq, regRead_of_otherKeys]

/-- Settles O18: the window is aligned to its size, so that its offset and the address have the same low ten bits. -/
theorem windowDecodesTheLowTenBits : Obligations.WindowDecodesTheLowTenBits := by
  unfold Obligations.WindowDecodesTheLowTenBits
  intro p hp addr
  obtain ⟨haligned, hfits⟩ : p.sfeBase % 1024 = 0 ∧ p.sfeBase + 1024 ≤ 2 ^ p.busAddrBits := by
    simpa [Config.Platform.wf] using hp
  refine ⟨fun off => windowOffset_eq_some_iff, fun off h => ?_, fun h => if_neg (by omega)⟩
  have haddr := windowOffset_eq_some_iff.1 h
  have hoff := off.isLt
  omega

end

section
/-! PROOFS. What FRAME reads and what it does not (spec/41_frame.md section 2, 10_state.md R48). -/

namespace Sys2Proof.Machine

/-! ## What FRAME reads -/

/-- FRAME's payload read, byte by byte from FB[3]. -/
theorem readFb_payload_congr {m m' : Memory} {l : Nat} (h : ∀ i, 3 ≤ i → fbByte m i = fbByte m' i) :
    readFb m 3 (l - 3) = readFb m' 3 (l - 3) := readFb_congr fun k _ => h (3 + k) (by omega)

theorem exec_frame_unwritten {s : State} {len : Byte} {i : Nat} (hq : s.seq = .idle) (h3 : 3 ≤ i) (hi : i < len.toNat)
    (hu : fbWritten s.mem i = false) (hw : FbWritten s 3 i) : exec (.frame len) s = .fault (.unwrittenFrameByte i) := by
  obtain ⟨k, rfl⟩ := Nat.exists_eq_add_of_le h3
  exact execFrame_faults hq (by omega)
    (readFb_of_unwritten (by omega) hu fun j hj => hw (3 + j) (by omega) (by omega))

/-- An IDLE SFE's FRAME of at least 3 bytes that answers has stamped the payload it read. -/
theorem exec_frame_framed {s t : State} {len : Byte} (hq : s.seq = .idle) (hl : 3 ≤ len.toNat)
    (h : exec (.frame len) s = .next t) :
    ∃ payload, readFb s.mem 3 (len.toNat - 3) = .ok payload ∧ t = s.stampFrame len (checksum payload) := by
  cases exec_next h with
  | framed _ payload _ _ hp => exact ⟨payload, hp, rfl⟩
  | busy _ hb => simp [hq] at hb
  | frameShort _ _ hshort => omega

/-! ## The header, written twice (R150) -/

theorem writeFb_header_twice {m : Memory} (hm : m.wf = true) (len : Byte) (sum : BitVec 16) :
    writeFb (writeFb m (frameHeader len sum)) (frameHeader len sum) = writeFb m (frameHeader len sum) := by
  have hwf : (writeFb m (frameHeader len sum)).wf = true := wf_writeFb _ _ hm (by simp)
  refine Memory.ext_of_wf _ _ (wf_writeFb _ _ hwf (by simp)) hwf fun a => ?_
  rw [get_writeFb, get_writeFb]
  split <;> rfl

/-! ## The sum (R141, R147) -/

/-- The sum of FB[3..L), not reduced. -/
def payloadSum (s : State) (l : Nat) : Nat := ((List.range' 3 (l - 3)).map fun i => (fbValue s i).toNat).sum

theorem frameSum_eq (s : State) (l : Nat) : frameSum s l = payloadSum s l % 65536 := rfl

theorem payloadSum_le (s : State) (len : Byte) : payloadSum s len.toNat ≤ 252 * 255 := by
  have hsum := sum_bytes_le ((List.range' 3 (len.toNat - 3)).map (fbValue s))
  have hlen := len.isLt
  rw [List.map_map, List.length_map, List.length_range'] at hsum
  exact hsum.trans (by omega)

end Sys2Proof.Machine

open Sys2Proof Sys2Proof.Machine

/-- Settles O27: `readFb` goes up from FB[3] and stops at the first byte that is missing. -/
theorem frameOfAnUnwrittenByteFaults : Obligations.FrameOfAnUnwrittenByteFaults := by
  unfold Obligations.FrameOfAnUnwrittenByteFaults
  exact fun s len i hq h3 hi hu hw => exec_frame_unwritten hq h3 hi hu hw

/-- Settles O28: the payload read begins at FB[3]. -/
theorem checksumIgnoresTheHeaderBytes : Obligations.ChecksumIgnoresTheHeaderBytes := by
  unfold Obligations.ChecksumIgnoresTheHeaderBytes
  intro s t m len hm h
  cases exec_next h with
  | busy _ hb => exact ⟨_, exec_busy (s := { s with mem := m }) hb _, rfl, rfl, rfl⟩
  | frameShort _ hq hl => exact ⟨_, exec_frame_short (s := { s with mem := m }) hq hl, rfl, rfl, rfl⟩
  | framed _ payload hq hl hp =>
    rw [← readFb_payload_congr hm] at hp
    exact ⟨_, execFrame_stamps (s := { s with mem := m }) hq hl hp, rfl, rfl, rfl⟩

/-- Settles O29: 252 bytes of at most 255 sum to less than 65536. -/
theorem frameSumNeverWraps : Obligations.FrameSumNeverWraps := by
  unfold Obligations.FrameSumNeverWraps
  intro s len hq hl hw sum
  refine ⟨⟨_, exec_frame_of_written hq hl hw, ?_⟩, payloadSum_le s len, by decide⟩
  rw [State.stampFrame_fiCsum, BitVec.toNat_ofNat, frameSum_eq, Nat.mod_mod]
  exact Nat.mod_eq_of_lt ((payloadSum_le s len).trans_lt (by decide))

/-- Settles O30: both runs read the same payload and stamp the same header. -/
theorem frameReadsOnlyTheFrameBuffer : Obligations.FrameReadsOnlyTheFrameBuffer := by
  unfold Obligations.FrameReadsOnlyTheFrameBuffer
  intro s s' t len hseq hfb hq hl h
  obtain ⟨payload, hp, rfl⟩ := exec_frame_framed hq hl h
  rw [← readFb_payload_congr fun i _ => hfb i] at hp
  refine ⟨_, execFrame_stamps (hseq.trans hq) hl hp, fun i => ?_, cbByte_stampHeader s'.mem len _, rfl, rfl, rfl, rfl⟩
  rw [State.stampFrame_mem, State.stampFrame_mem, fbByte_stampHeader, fbByte_stampHeader, hfb]

/-- Settles O31: the second FRAME reads the same payload, and writes the header over itself. -/
theorem repeatedFrameIsIdempotent : Obligations.RepeatedFrameIsIdempotent := by
  unfold Obligations.RepeatedFrameIsIdempotent
  intro s t len hm hl h
  rcases s.seq.idle_or_busy with hq | hb
  · obtain ⟨payload, hp, rfl⟩ := exec_frame_framed hq hl h
    have hagain : readFb (writeFb s.mem (frameHeader len (checksum payload))) 3 (len.toNat - 3) = .ok payload := by
      rw [← hp]
      exact readFb_payload_congr fun i hi => by rw [fbByte_stampHeader, if_neg (by omega)]
    rw [execFrame_stamps (s := s.stampFrame len (checksum payload)) hq hl hagain, State.stampFrame, State.stampFrame,
      writeFb_header_twice hm]
  · rw [exec_busy hb] at h
    cases h
    rw [exec_busy (s := s.setErr .busy) hb]
    rfl

end

section
/-! PROOFS. TRANSMIT and counter mode (spec/42_transmit.md sections 1 to 7, 43_aes128.md section 5). -/

namespace Sys2Proof.Machine

/-! ## The refusal for the absent link (R173) -/

theorem exec_transmit_linkAbsent {s : State} (hq : s.seq = .idle) (hl : linkPresent s = false) (len : Byte) :
    exec (.transmit len) s = .next (s.refuseLink.setErr .linkAbsent) := by
  simp [exec, execTransmit, whenIdle_idle hq, hl]

/-! ## IV blocks and counter blocks (R164, R165) -/

theorem append_toNat (hi lo : Dword) : (hi ++ lo).toNat = hi.toNat * 2 ^ 64 + lo.toNat := by
  rw [BitVec.toNat_append, ← Nat.shiftLeft_add_eq_or_of_lt lo.isLt, Nat.shiftLeft_eq]

theorem byteOf_append (hi lo : Dword) {i : Nat} (h : i < 8) :
    byteOf (hi ++ lo) i = hi.extractLsb' (8 * (7 - i)) 8 ∧
      byteOf (hi ++ lo) (8 + i) = lo.extractLsb' (8 * (7 - i)) 8 := by
  interval_cases i <;>
    exact ⟨BitVec.extractLsb'_append_eq_of_le (by decide), BitVec.extractLsb'_append_eq_of_add_le (by decide)⟩

/-- The IV block is the counter's big-endian bytes twice (R164). -/
theorem blockBytes_ivBlock (c : Dword) : blockBytes (ivBlock c) = be64 c ++ be64 c := by
  rw [blockBytes, show 16 = 8 + 8 from rfl, List.range_add, List.map_append, List.map_map]
  congr 1
  · exact List.map_congr_left fun i hi => (byteOf_append c c (List.mem_range.1 hi)).1
  · exact List.map_congr_left fun i hi => (byteOf_append c c (List.mem_range.1 hi)).2

theorem ctrBlock_toNat (ivb : Block) (j : Nat) : (ctrBlock ivb j).toNat = (ivb.toNat + j) % 2 ^ 128 := by
  rw [ctrBlock, BitVec.toNat_add, BitVec.toNat_ofNat, Nat.add_mod_mod]

theorem ctrBlock_zero (ivb : Block) : ctrBlock ivb 0 = ivb := by simp [ctrBlock]

theorem ctrBlock_ivBlock_low {c : Dword} {j : Nat} (h : c.toNat + j < 2 ^ 64) :
    ctrBlock (ivBlock c) j = c ++ (c + BitVec.ofNat 64 j) := by
  apply BitVec.eq_of_toNat_eq
  rw [ctrBlock_toNat, ivBlock_toNat, append_toNat, BitVec.toNat_add, BitVec.toNat_ofNat, Nat.add_mod_mod,
    Nat.mod_eq_of_lt h]
  omega

theorem ctrBlock_ivBlock_carry {c : Dword} {j : Nat} (hj : j < 16) (h : 2 ^ 64 ≤ c.toNat + j) :
    ctrBlock (ivBlock c) j = (c + 1#64) ++ (c + BitVec.ofNat 64 j) := by
  have hc := c.isLt
  apply BitVec.eq_of_toNat_eq
  rw [ctrBlock_toNat, ivBlock_toNat, append_toNat, BitVec.toNat_add, BitVec.toNat_add, BitVec.toNat_ofNat,
    BitVec.toNat_ofNat, Nat.add_mod_mod, Nat.add_mod_mod]
  rcases Nat.lt_or_ge (c.toNat + 1) (2 ^ 64) with hlt | hge
  · have hlow : (c.toNat + j) % 2 ^ 64 = c.toNat + j - 2 ^ 64 := by omega
    rw [Nat.mod_eq_of_lt hlt, hlow, Nat.mod_eq_of_lt (by omega)]; omega
  · have htop : c.toNat = 2 ^ 64 - 1 := by omega
    rw [htop]; omega

/-! ## Counter mode (R166, R177) -/

/-- The ciphertext's first bytes depend on the plaintext's first bytes only. -/
theorem take_encrypt (key ivb : Block) {p pad : List Byte} (h : (p ++ pad).length % 16 = 0) :
    (encrypt key ivb (p ++ pad)).take p.length =
      p.mapIdx fun i b => b ^^^ byteOf (aes128 key (ctrBlock ivb (i / 16))) (i % 16) := by
  apply List.ext_getElem?
  intro i
  rw [List.getElem?_take, List.getElem?_mapIdx, encrypt_getElem? key ivb _ h]
  split
  next hi => rw [List.getElem?_append_left hi]
  next hi => rw [List.getElem?_eq_none (by omega)]; rfl

theorem encrypt_encrypt (key ivb : Block) {p : List Byte} (h : p.length % 16 = 0) :
    encrypt key ivb (encrypt key ivb p) = p := by
  apply List.ext_getElem?
  intro i
  rw [encrypt_getElem? key ivb _ (by rwa [encrypt_length key ivb p h]), encrypt_getElem? key ivb p h, Option.map_map]
  cases p[i]? with
  | none => rfl
  | some b => simp

/-! ## The padded plaintext (R160, R162) -/

/-- FB[0..n), for bytes that have been written. -/
def frameBytes (s : State) (n : Nat) : List Byte := (List.range n).map (fbValue s)

@[simp] theorem frameBytes_length (s : State) (n : Nat) : (frameBytes s n).length = n := by simp [frameBytes]

theorem frameBytes_getElem? (s : State) {n i : Nat} (h : i < n) : (frameBytes s n)[i]? = some (fbValue s i) := by
  rw [frameBytes, List.getElem?_map, List.getElem?_range h]; rfl

theorem readFb_frameBytes {s : State} {n : Nat} (hw : FbWritten s 0 n) : readFb s.mem 0 n = .ok (frameBytes s n) := by
  have hread := readFb_of_written (m := s.mem) (i := 0) (n := n) fun k hk => hw (0 + k) (by omega) (by omega)
  simp only [Nat.zero_add] at hread
  exact hread

theorem padded_getElem? (s : State) {n i : Nat} {pad : List Byte} (hi : i < n + pad.length) :
    (frameBytes s n ++ pad)[i]? = some (if i < n then fbValue s i else pad.getD (i - n) 0#8) := by
  split
  next h => rw [List.getElem?_append_left (by simpa using h), frameBytes_getElem? s h]
  next h =>
    rw [List.getElem?_append_right (by simpa using h), frameBytes_length, List.getD,
      List.getElem?_eq_getElem (by omega)]
    rfl

/-! ## An accepted TRANSMIT, and one that stops (R160, R48) -/

section
variable {s : State} {len : Byte} (hq : s.seq = .idle) (hl : linkPresent s = true) (hv : s.ivCtr ≠ BitVec.allOnes 64)
include hq hl hv

/-- With the frame written, TRANSMIT sends it with some padding. -/
theorem exec_transmit_of_written (hw : FbWritten s 0 len.toNat) : ∃ (pad : List Byte) (d : Nat),
    pad.length = padLen len.toNat - len.toNat ∧
      exec (.transmit len) s = .next ((s.setDraws d).sendPadded (frameBytes s len.toNat ++ pad)) :=
  ⟨_, _, padBytes_length _ _, execTransmit_sends hq hl hv (readFb_frameBytes hw)⟩

theorem exec_transmit_unwritten {i : Nat} (hi : i < len.toNat) (hu : fbWritten s.mem i = false) (hw : FbWritten s 0 i) :
    exec (.transmit len) s = .fault (.unwrittenFrameByte i) := by
  have hread := readFb_of_unwritten (m := s.mem) (i := 0) (n := len.toNat) hi (by rwa [Nat.zero_add]) fun j hj => by
    rw [Nat.zero_add]; exact hw j (by omega) hj
  rw [Nat.zero_add] at hread
  exact execTransmit_faults hq hl hv hread

end

/-! ## FRAME, then TRANSMIT (R149, R178) -/

theorem fbValue_stampFrame (s : State) (len : Byte) (sum : BitVec 16) (i : Nat) :
    fbValue (s.stampFrame len sum) i = if i < 3 then ((frameHeader len sum)[i]?).getD 0#8 else fbValue s i := by
  rw [fbValue, State.stampFrame_mem, fbByte_stampHeader]
  split <;> rfl

theorem stampFrame_written {s : State} {n : Nat} (hw : FbWritten s 3 n) (len : Byte) (sum : BitVec 16) :
    FbWritten (s.stampFrame len sum) 0 n := by
  intro i _ hi
  rw [State.stampFrame_mem]
  by_cases h3 : i < 3
  · exact fbWritten_stampHeader s.mem len sum h3
  · rw [fbWritten, fbByte_stampHeader, if_neg h3]
    exact hw i (by omega) hi

theorem fbByte_of_written {s : State} {a b i : Nat} (hw : FbWritten s a b) (ha : a ≤ i) (hb : i < b) :
    fbByte s.mem i = some (fbValue s i) := by
  obtain ⟨v, hval⟩ := Option.isSome_iff_exists.1 (hw i ha hb)
  rw [fbValue, hval]; rfl

theorem ofNat_frameSum (s : State) (l : Nat) : BitVec.ofNat 16 (frameSum s l) = BitVec.ofNat 16 (payloadSum s l) := by
  apply BitVec.eq_of_toNat_eq
  rw [BitVec.toNat_ofNat, BitVec.toNat_ofNat, frameSum_eq, Nat.mod_mod]

/-- The payload bytes of a stamped frame are the host's. -/
theorem drop_frameBytes_stampFrame (s : State) (len : Byte) (sum : BitVec 16) (n : Nat) :
    (frameBytes (s.stampFrame len sum) n).drop 3 = (List.range' 3 (n - 3)).map (fbValue s) := by
  rw [frameBytes, ← List.map_drop, List.range_eq_range', List.drop_range']
  refine List.map_congr_left fun i hi => ?_
  have := (List.mem_range'_1.1 hi).1
  rw [fbValue_stampFrame, if_neg (by omega)]

end Sys2Proof.Machine

open Sys2Proof Sys2Proof.Machine

/-- Settles O33: the accepted TRANSMIT is `sendPadded` of the frame and its padding. -/
theorem transmitEncryptsAndHandsOver : Obligations.TransmitEncryptsAndHandsOver := by
  unfold Obligations.TransmitEncryptsAndHandsOver
  intro s len hq hl hv hw pl
  obtain ⟨pad, d, hpad, hexec⟩ := exec_transmit_of_written hq hl hv hw
  have hlt : len.toNat < pl := (padLen_bounds len.toNat).1
  have hle : pl ≤ 256 := padLen_le len
  have hplain : (frameBytes s len.toNat ++ pad).length = pl := padded_length (readFb_frameBytes hw) hpad
  have hblocks : (frameBytes s len.toNat ++ pad).length % 16 = 0 := hplain ▸ padLen_mod len.toNat
  have hsent := encrypt_padded_length (readFb_frameBytes hw) hpad s.key (ivBlock (s.ivCtr + 1#64))
  refine ⟨_, pad, encrypt s.key (ivBlock (s.ivCtr + 1#64)) (frameBytes s len.toNat ++ pad), hexec, hpad, hsent, rfl,
    ivCtr_succ_toNat hv, blockBytes_ivBlock _, fun i hi => ⟨?_, ?_⟩, fun a ha => ?_, ?_, rfl, rfl, rfl, rfl, rfl, rfl⟩
  · rw [encrypt_getElem? _ _ _ hblocks, padded_getElem? s (by omega)]
    rfl
  · exact (cbByte_writeCb s.mem _ i (hsent.trans_le hle)).trans (if_pos (hi.trans_eq hsent.symm))
  · exact (get_writeCb s.mem _ a).trans (if_neg (hsent.symm ▸ ha))
  · rw [State.sendPadded_txPadLen, hplain, padLen_fits]

/-- Settles O34: the link's check comes first, and writes RESULT and CS_HELD before the error. -/
theorem transmitWithoutLinkIsRefused : Obligations.TransmitWithoutLinkIsRefused := by
  unfold Obligations.TransmitWithoutLinkIsRefused
  exact ⟨fun s len hq hl => exec_transmit_linkAbsent hq hl len, rfl⟩

/-- Settles O36: `readFb` goes up from FB[0] and stops at the first byte that is missing. -/
theorem transmitOfAnUnwrittenByteFaults : Obligations.TransmitOfAnUnwrittenByteFaults := by
  unfold Obligations.TransmitOfAnUnwrittenByteFaults
  exact fun s len i hq hl hv hi hu hw => exec_transmit_unwritten hq hl hv hi hu hw

/-- Settles O37: all clauses compare numbers; the IV block spells c * 2^64 + c. -/
theorem counterBlocksCarryAcrossTheHalves : Obligations.CounterBlocksCarryAcrossTheHalves := by
  unfold Obligations.CounterBlocksCarryAcrossTheHalves
  exact ⟨ctrBlock_toNat, ctrBlock_zero, fun c j hj => ⟨ctrBlock_ivBlock_low, ctrBlock_ivBlock_carry hj⟩, by decide,
    by decide⟩

/-- Settles O38: byte i of the ciphertext is byte i of the plaintext XORed with a byte that depends on i alone. -/
theorem counterModeIgnoresPaddingAndInverts : Obligations.CounterModeIgnoresPaddingAndInverts := by
  unfold Obligations.CounterModeIgnoresPaddingAndInverts
  refine ⟨fun key ivb p pad pad' hpad h => ?_,
    fun key ivb p h => ⟨encrypt_length key ivb p h, encrypt_encrypt key ivb h⟩⟩
  have h' : (p ++ pad').length % 16 = 0 := by rwa [List.length_append, ← hpad, ← List.length_append]
  rw [take_encrypt key ivb h, take_encrypt key ivb h']

/-- Settles O39: the gateway's decryption is the padded plaintext, whose first bytes are the stamped frame. -/
theorem gatewayRecoversTheFrame : Obligations.GatewayRecoversTheFrame := by
  unfold Obligations.GatewayRecoversTheFrame
  intro s len hq hlen hw hl hv
  have hframe := exec_frame_of_written hq hlen hw
  generalize hsum : BitVec.ofNat 16 (frameSum s len.toNat) = sum at hframe
  have hwt := stampFrame_written hw len sum
  obtain ⟨pad, d, hpad, hexec⟩ := exec_transmit_of_written (s := s.stampFrame len sum) hq hl hv hwt
  have hplain := padded_length (readFb_frameBytes hwt) hpad
  have hdec := encrypt_encrypt s.key (ivBlock (s.ivCtr + 1#64)) (hplain ▸ padLen_mod len.toNat)
  have hbyte {i : Nat} (hi : i < len.toNat) : (frameBytes (s.stampFrame len sum) len.toNat ++ pad)[i]? =
      some (if i < 3 then ((frameHeader len sum)[i]?).getD 0#8 else fbValue s i) := by
    rw [padded_getElem? _ (by omega), if_pos hi, fbValue_stampFrame]
  have hgateway : BitVec.ofNat 16 ((((frameBytes (s.stampFrame len sum) len.toNat ++ pad).take len.toNat).drop 3).map
      BitVec.toNat).sum = sum := by
    rw [List.take_left' (frameBytes_length _ _), drop_frameBytes_stampFrame, List.map_map]
    exact (ofNat_frameSum s len.toNat).symm.trans hsum
  refine ⟨_, _, encrypt s.key (ivBlock (s.ivCtr + 1#64)) (frameBytes (s.stampFrame len sum) len.toNat ++ pad), hframe,
    hexec, rfl, ?_⟩
  rw [hdec]
  intro plain gatewaySum
  rw [show gatewaySum = sum from hgateway]
  refine ⟨hplain, hbyte (by omega), hbyte (by omega), hbyte (by omega), fun i h3 hi => ?_⟩
  rw [fbByte_of_written hw h3 hi]
  exact (hbyte hi).trans (by rw [if_neg (by omega)])

end

section
/-! PROOFS. The invariant: it holds after reset and every step keeps it (spec/10_state.md sections 2 to 8,
42_transmit.md sections 3 and 5). -/

namespace Sys2Proof.Machine

/-! ## What the invariant says of an idle SFE and of one without a link -/

theorem ivCtr_succ_ne_zero {c : Dword} (h : c ≠ BitVec.allOnes 64) : c + 1#64 ≠ 0 := fun h0 => by
  have hsucc : (0 : Dword).toNat = c.toNat + 1 := h0 ▸ ivCtr_succ_toNat h
  exact Nat.succ_ne_zero _ hsucc.symm

section
variable {s : State} (hi : Inv s)
include hi

/-- While IDLE the chip select is released (R170), so that releasing it changes nothing. -/
theorem Inv.releaseCs_eq (hq : s.seq = .idle) : s.releaseCs = s := by
  have hcs : s.csHeld = false := Bool.eq_false_iff.2 fun h => by simpa [hq] using hi.csHeldIffBusy.1 h
  rw [State.releaseCs, ← hcs]

theorem Inv.txPadLen_eq_zero (hl : linkPresent s = false) : s.txPadLen = 0 := by
  by_contra h
  simpa [hl] using hi.acceptedLink h

/-! ## The named updates keep it -/

theorem Inv.setErr (e : ErrCode) : Inv (s.setErr e) := hi.of_unseen rfl rfl

theorem Inv.setCfgState_invalid (hc : s.cfgState = .unconfigured) : Inv (s.setCfgState .invalid) where
  __ := hi
  acceptedLink h := absurd (hi.txPadLen_eq_zero (by simp [linkPresent, hc])) h
  unarmed _ := hi.unarmed (by simp [hc])
  ivLive h := by cases h
  radioValid h := by cases h

/-- CFG_LOAD loads only what passed the checks, and before any TRANSMIT was accepted. -/
theorem Inv.latchConfig (hc : s.cfgState = .unconfigured) (hv : ConfigPasses s) : Inv s.latchConfig := by
  have hpad : s.txPadLen = 0 := hi.txPadLen_eq_zero (by simp [linkPresent, hc])
  exact
    { hi with
      acceptedLink := fun h => absurd hpad h
      unarmed := fun h => absurd rfl h
      ivLive := fun _ => hv.seed.2
      radioValid := fun _ => ⟨hv.power.1, hv.power.2, hv.freq, hv.addrs.1.1, hv.addrs.1.2, hv.addrs.2⟩
      ivLastForm := ⟨hi.ivLastForm.1, fun h => absurd hpad h⟩ }

theorem Inv.setRadioState (hr : s.radioState = .unknown) (r : RadioState) : Inv (s.setRadioState r) where
  __ := hi
  acceptedLink h := absurd (hi.txPadLen_eq_zero (by simp [linkPresent, hr])) h

theorem Inv.setMem {m : Memory} (hm : m.wf = true) (hcb : ∀ i, cbByte m i = cbByte s.mem i) : Inv (s.setMem m) where
  __ := hi
  memWf := hm
  cbUntouched h i := (hcb i).trans (hi.cbUntouched h i)
  cbIsLastSend h := by
    obtain ⟨sent, hlast, hlen, hbytes⟩ := hi.cbIsLastSend h
    exact ⟨sent, hlast, hlen, fun i hlt => (hcb i).trans (hbytes i hlt)⟩

theorem Inv.stampFrame {len : Byte} {sum : BitVec 16} (hl : 3 ≤ len.toNat) (hs : sum.toNat ≤ 255 * (len.toNat - 3)) :
    Inv (s.stampFrame len sum) where
  __ := hi.setMem (wf_writeFb s.mem (frameHeader len sum) hi.memWf (by simp)) (cbByte_stampHeader s.mem len sum)
  frameInfoForm := .inr ⟨hl, hs⟩

theorem Inv.refuseLink (hq : s.seq = .idle) (hl : linkPresent s = false) : Inv s.refuseLink where
  __ := hi
  csHeldIffBusy := by simp [hq]
  inProgressIffBusy := by simp [hq]
  padLenIffAccepted := by simp [hi.txPadLen_eq_zero hl]

/-- An accepted TRANSMIT: CB, the radio and TX_PADLEN get one string, and the counter stays away from 0. -/
theorem Inv.sendPadded {p : List Byte} {len : Byte} (hl : linkPresent s = true) (hv : s.ivCtr ≠ BitVec.allOnes 64)
    (hp : p.length = padLen len.toNat) : Inv (s.sendPadded p) := by
  have hle := padLen_le len
  have hmod := padLen_mod len.toNat
  have hlt := (padLen_bounds len.toNat).1
  have htx : (s.sendPadded p).txPadLen.toNat = padLen len.toNat := by rw [State.sendPadded_txPadLen, hp, padLen_fits]
  have hne : (s.sendPadded p).txPadLen ≠ 0 := fun h => by
    have hzero : padLen len.toNat = 0 := by rw [← htx, h]; rfl
    omega
  have hlen : (encrypt s.key (ivBlock (s.ivCtr + 1#64)) p).length = padLen len.toNat := by
    rw [encrypt_length _ _ _ (by omega), hp]
  exact
    { hi with
      memWf := wf_writeCb _ _ hi.memWf (by omega)
      csHeldIffBusy := by simp
      inProgressIffBusy := by simp
      padLenIffAccepted := iff_of_true hne (.inr rfl)
      acceptedLink := fun _ => hl
      padLenForm := .inr (by omega)
      unarmed := fun h => absurd ((linkPresent_iff s).1 hl).1 h
      ivLive := fun _ => ivCtr_succ_ne_zero hv
      ivLastForm := ⟨fun h => absurd h hne, fun _ => rfl⟩
      cbUntouched := fun h => absurd h hne
      cbIsLastSend := fun _ => ⟨_, List.getLast?_concat, hlen.trans htx.symm, fun i hlt => by
        rw [State.sendPadded_mem, cbByte_writeCb _ _ _ (by omega), if_pos hlt]⟩ }

/-! ## So do the commands and the other events -/

theorem Inv.command {t : State} {i : Instr} (he : CommandEffect s i t) : Inv t := by
  cases he with
  | busy | cfgAgain | linkAgain | frameShort => exact hi.setErr _
  | cfgFailed _ hc => exact (hi.setCfgState_invalid hc).setErr _
  | cfgLoaded _ hc hv => exact hi.latchConfig hc hv
  | linkReported arg _ hr => exact (hi.setRadioState hr _).setErr _
  | framed len payload _ hl hp =>
    exact hi.stampFrame hl ((readFb_ok hp).1 ▸ checksum_le payload)
  | linkAbsent len hq hl => exact (hi.refuseLink hq hl).setErr _
  | exhausted len hq => rw [hi.releaseCs_eq hq]; exact hi.setErr _
  | accepted len bytes pad d _ hl hv hb hp =>
    exact Inv.sendPadded (s := s.setDraws d) (hi.of_unseen rfl rfl) hl hv (padded_length hb hp)

theorem Inv.radioDone : Inv (radioDone s) := by
  rcases s.seq.idle_or_busy with hq | hb
  · rw [radioDone_idle hq]
    exact hi.of_unseen rfl rfl
  · rw [radioDone_busy hb]
    have haccepted := hi.padLenIffAccepted.2 (.inr (hi.inProgressIffBusy.2 hb))
    exact
      { hi with
        csHeldIffBusy := by simp
        inProgressIffBusy := by simp
        padLenIffAccepted := iff_of_true haccepted (.inl rfl) }

end

/-- The SFE's reset values meet the invariant, whatever the other agents have seen. -/
theorem Inv.reset (o : Outside) : Inv { State.reset with outside := o } where
  memWf := Memory.wf_nil
  csHeldIffBusy := by simp [State.reset]
  inProgressIffBusy := by simp [State.reset]
  padLenIffAccepted := by simp [State.reset]
  acceptedLink h := absurd rfl h
  padLenForm := .inl rfl
  unarmed _ := ⟨rfl, rfl, rfl, rfl, rfl, rfl⟩
  ivLive h := by cases h
  radioValid h := by cases h
  ivLastForm := ⟨fun _ => rfl, fun h => absurd rfl h⟩
  cbUntouched _ := cbByte_reset
  cbIsLastSend h := absurd rfl h
  frameInfoForm := .inl ⟨rfl, rfl⟩

theorem Inv.step {s t : State} (hi : Inv s) (h : step s = .next t) : Inv t := by
  have hin (rest : List Input) : Inv (s.setInputs rest) := hi.of_unseen rfl rfl
  cases step_next h with
  | waited => exact hi
  | answered i rest => exact (hin rest).of_unseen rfl rfl
  | command w rest _ i _ u he => exact ((hin rest).command he).of_unseen rfl rfl
  | illegal w rest => exact (hin rest).of_unseen rfl rfl
  | register off v rest => rw [regWrite_eq]; exact (hin rest).of_unseen rfl rfl
  | buffer off n v rest =>
    exact ((hin rest).setMem (wf_writeLanes s.mem v _ _ _ hi.memWf) (cbByte_writeLanes s.mem v _ _)).of_unseen rfl rfl
  | radio rest => exact (hin rest).radioDone
  | resets => exact Inv.reset _

end Sys2Proof.Machine

open Sys2Proof Sys2Proof.Machine

/-- Settles O43: the reset state is the reset values with an empty record of the other agents. -/
theorem resetMeetsTheInvariant : Obligations.ResetMeetsTheInvariant := by
  unfold Obligations.ResetMeetsTheInvariant
  exact Inv.reset Outside.start

/-- Settles O44: each effect a step can have keeps the invariant. -/
theorem everyStepKeepsTheInvariant : Obligations.EveryStepKeepsTheInvariant := by
  unfold Obligations.EveryStepKeepsTheInvariant
  exact fun s t hi h => hi.step h

end

section
/-! PROOFS. What one step can change, element by element (spec/10_state.md sections 1 to 8, 30_encoding.md section 1,
70_reset_and_hazards.md section 1). -/

namespace Sys2Proof.Machine

/-! ## The step of each kind of event (R70, R90, R250, R251) -/

theorem step_waits {s : State} (hin : s.outside.inputs = []) : step s = .next s := by
  simp only [step, takeNext, hin]

theorem step_reset {s : State} {rest : List Input} (hin : s.outside.inputs = .reset :: rest) :
    step s = .next { State.reset with outside := { s.outside with inputs := rest } } := by
  simp only [step, takeNext, hin, takeInput]; rfl

theorem issueCommand_of_decodeWord {w : Word} {i : Instr} (hd : decodeWord w = .ok i) (s : State) :
    issueCommand w s = exec i s := by
  simp only [issueCommand, hd]

theorem step_decoded_command {s : State} {w : Word} {rest : List Input} {i : Instr}
    (hin : s.outside.inputs = .write 0x008#10 .w4 w :: rest) (hd : decodeWord w = .ok i) :
    step s = acknowledge (exec i (s.setInputs rest)) := by
  rw [step_command hin, issueCommand_of_decodeWord hd]

/-! ## What only a legal command or the reset changes -/

/-- `t` has the elements of `s` that no event but a legal command or the reset changes. -/
structure CommandElementsKept (s t : State) : Prop where
  radioState : t.radioState = s.radioState
  key : t.key = s.key
  ivCtr : t.ivCtr = s.ivCtr
  radioPower : t.radioPower = s.radioPower
  radioFreq : t.radioFreq = s.radioFreq
  radioOwnAddr : t.radioOwnAddr = s.radioOwnAddr
  radioGwAddr : t.radioGwAddr = s.radioGwAddr
  sends : t.outside.sends = s.outside.sends
  cb : ∀ i, cbByte t.mem i = cbByte s.mem i

theorem CommandElementsKept.radioPort_eq {s t : State} (hk : CommandElementsKept s t) :
    radioPort { t with csHeld := s.csHeld } = radioPort s := by
  simp only [radioPort, hk.radioPower, hk.radioFreq, hk.radioOwnAddr, hk.radioGwAddr]

theorem radioDone_kept (s : State) : CommandElementsKept s (radioDone s) := by
  rcases s.seq.idle_or_busy with hq | hb
  · rw [radioDone_idle hq]; exact ⟨rfl, rfl, rfl, rfl, rfl, rfl, rfl, rfl, fun _ => rfl⟩
  · rw [radioDone_busy hb]; exact ⟨rfl, rfl, rfl, rfl, rfl, rfl, rfl, rfl, fun _ => rfl⟩

theorem regWrite_kept (s : State) (off : Nat) (v : Word) : CommandElementsKept s (regWrite s off v) := by
  rw [regWrite_eq]; exact ⟨rfl, rfl, rfl, rfl, rfl, rfl, rfl, rfl, fun _ => rfl⟩

/-- `t` is what the write of a command word that decodes to `i` leaves of `s`. -/
def CommandStep (s : State) (i : Instr) (t : State) : Prop := ∃ (w : Word) (rest : List Input) (u : State),
  s.outside.inputs = .write 0x008#10 .w4 w :: rest ∧ decodeWord w = .ok i ∧ CommandEffect (s.setInputs rest) i u ∧
    t = u.setResponse .ack

/-- Without a reset a step is a legal command's or leaves those elements alone. -/
theorem step_command_or_kept {s t : State} (h : step s = .next t) (hr : s.outside.inputs.head? ≠ some .reset) :
    (∃ i, CommandStep s i t) ∨ CommandElementsKept s t := by
  cases step_next h with
  | command w rest hin i hd u he => exact .inl ⟨i, w, rest, u, hin, hd, he, rfl⟩
  | register off v rest =>
    have hk := regWrite_kept (s.setInputs rest) off.toNat v
    exact .inr { hk with }
  | radio rest =>
    have hk := radioDone_kept (s.setInputs rest)
    exact .inr { hk with }
  | buffer off n v rest =>
    exact .inr ⟨rfl, rfl, rfl, rfl, rfl, rfl, rfl, rfl, cbByte_writeLanes s.mem v off.toNat n.bytes⟩
  | resets rest hin => exact absurd (by rw [hin]; rfl) hr
  | waited | answered | illegal => exact .inr ⟨rfl, rfl, rfl, rfl, rfl, rfl, rfl, rfl, fun _ => rfl⟩

/-! ## The command words (R91, R94) -/

/-- The word of a decoded command is the command's encoding. -/
theorem CommandStep.head? {s t : State} {i : Instr} (h : CommandStep s i t) :
    s.outside.inputs.head? = some (.write 0x008#10 .w4 (encode i)) := by
  obtain ⟨w, rest, u, hin, hd, -⟩ := h
  rw [hin, encode_of_decodeWord hd]; rfl

theorem encode_cfgLoad : encode .cfgLoad = 0x00000001#32 := by decide

/-- LINK_INIT has two words (R93). -/
theorem encode_linkInit {arg : Byte} (h : (Instr.linkInit arg).wellFormed = true) :
    encode (.linkInit arg) = 0x00000102#32 ∨ encode (.linkInit arg) = 0x00000002#32 := by
  have harg : ∀ a : Byte, a &&& 0xFE#8 = 0#8 → a = 1#8 ∨ a = 0#8 := by decide
  exact (harg arg (beq_iff_eq.1 h)).imp (fun h => by rw [h]; decide) fun h => by rw [h]; decide

/-! ## CFG_STATE, RADIO_STATE and LINK_PRESENT (R25, R27, R130) -/

/-- Only the first LINK_INIT moves RADIO_STATE. -/
theorem CommandEffect.radioState_eq_or {s t : State} {i : Instr} (he : CommandEffect s i t) :
    t.radioState = s.radioState ∨ s.radioState = .unknown ∧ ∃ arg, i = .linkInit arg := by
  cases he with
  | linkReported arg _ hr => exact .inr ⟨hr, arg, rfl⟩
  | busy | cfgAgain | cfgFailed | cfgLoaded | linkAgain | frameShort | framed | linkAbsent | exhausted | accepted =>
    exact .inl rfl

section
variable {s t : State} (h : step s = .next t) (hr : s.outside.inputs.head? ≠ some .reset)
include h hr

theorem step_keeps_configured (hc : s.cfgState ≠ .unconfigured) : t.cfgState = s.cfgState :=
  (step_cfgState_eq_or h hr).resolve_right fun hmoved => hc hmoved.1

theorem step_cfgState_moved (hne : t.cfgState ≠ s.cfgState) : s.cfgState = .unconfigured ∧
    s.outside.inputs.head? = some (.write 0x008#10 .w4 0x00000001#32) := by
  obtain ⟨hc, w, rest, hin, hd⟩ := (step_cfgState_eq_or h hr).resolve_left hne
  exact ⟨hc, by rw [hin, ← encode_of_decodeWord hd, encode_cfgLoad]; rfl⟩

theorem step_radioState_moved (hne : t.radioState ≠ s.radioState) : s.radioState = .unknown ∧
    (s.outside.inputs.head? = some (.write 0x008#10 .w4 0x00000102#32) ∨
      s.outside.inputs.head? = some (.write 0x008#10 .w4 0x00000002#32)) := by
  rcases step_command_or_kept h hr with ⟨i, hcmd⟩ | hk
  · have hhead := hcmd.head?
    obtain ⟨w, rest, u, -, hd, he, rfl⟩ := hcmd
    obtain ⟨hunknown, arg, rfl⟩ := he.radioState_eq_or.resolve_left hne
    rw [hhead]
    exact ⟨hunknown, (encode_linkInit (wellFormed_of_decodeWord hd)).imp (fun e => by rw [e]) fun e => by rw [e]⟩
  · exact absurd hk.radioState hne

theorem step_keeps_linkPresent (hc : s.cfgState ≠ .unconfigured) (hu : s.radioState ≠ .unknown) :
    linkPresent t = linkPresent s := by
  have hradio : t.radioState = s.radioState := by
    by_contra hne
    exact hu (step_radioState_moved h hr hne).1
  simp only [linkPresent, step_keeps_configured h hr hc, hradio]

end

/-! ## SEQ (R22) -/

/-- Only an accepted TRANSMIT moves SEQ. -/
theorem CommandEffect.seq_eq_or {s t : State} {i : Instr} (he : CommandEffect s i t) :
    t.seq = s.seq ∨ t.seq = .busy ∧ linkPresent s = true ∧ ∃ len, i = .transmit len := by
  cases he with
  | accepted len _ _ _ _ hl => exact .inr ⟨rfl, hl, len, rfl⟩
  | busy | cfgAgain | cfgFailed | cfgLoaded | linkAgain | linkReported | frameShort | framed | linkAbsent | exhausted =>
    exact .inl rfl

theorem radioDone_seq (s : State) : (radioDone s).seq = .idle := by
  rcases s.seq.idle_or_busy with hq | hb
  · rw [radioDone_idle hq]; exact hq
  · rw [radioDone_busy hb]

theorem regWrite_seq_err (s : State) (off : Nat) (v : Word) :
    (regWrite s off v).seq = s.seq ∧ (regWrite s off v).err = s.err := by
  rw [regWrite_eq]; exact ⟨rfl, rfl⟩

theorem step_seq {s t : State} (h : step s = .next t) : t.seq = s.seq ∨
    (t.seq = .busy ∧ linkPresent s = true ∧
      ∃ len, s.outside.inputs.head? = some (.write 0x008#10 .w4 (encode (.transmit len)))) ∨
    t.seq = .idle ∧ (s.outside.inputs.head? = some .radioDone ∨ s.outside.inputs.head? = some .reset) := by
  cases step_next h with
  | command w rest hin i hd u he =>
    rcases he.seq_eq_or with hs | ⟨hb, hl, len, rfl⟩
    · exact .inl hs
    · exact .inr (.inl ⟨hb, hl, len, by rw [hin, encode_of_decodeWord hd]; rfl⟩)
  | register off v rest => exact .inl (regWrite_seq_err (s.setInputs rest) off.toNat v).1
  | radio rest hin => exact .inr (.inr ⟨radioDone_seq _, .inl (by rw [hin]; rfl)⟩)
  | resets rest hin => exact .inr (.inr ⟨rfl, .inr (by rw [hin]; rfl)⟩)
  | waited | answered | illegal | buffer => exact .inl rfl

/-! ## ERR (R30) -/

theorem radioDone_err (s : State) : (radioDone s).err = s.err := by
  simp only [radioDone]
  split <;> rfl

theorem step_err {s t : State} (h : step s = .next t) : t.err = s.err ∨ s.outside.inputs.head? = some .reset ∨
    ∃ w : Word, s.outside.inputs.head? = some (.write 0x008#10 .w4 w) := by
  cases step_next h with
  | command w rest hin => exact .inr (.inr ⟨w, by rw [hin]; rfl⟩)
  | illegal w rest hin => exact .inr (.inr ⟨w, by rw [hin]; rfl⟩)
  | resets rest hin => exact .inr (.inl (by rw [hin]; rfl))
  | register off v rest => exact .inl (regWrite_seq_err (s.setInputs rest) off.toNat v).2
  | radio rest => exact .inl (radioDone_err _)
  | waited | answered | buffer => exact .inl rfl

/-! ## The key, the radio parameters and CB (R42, R44, R46) -/

/-- Only a passed CFG_LOAD moves the key and the radio parameters. -/
theorem CommandEffect.key_radioPort_eq_or {s t : State} {i : Instr} (he : CommandEffect s i t) :
    (t.key = s.key ∧ radioPort { t with csHeld := s.csHeld } = radioPort s) ∨
      i = .cfgLoad ∧ s.cfgState = .unconfigured ∧ t.cfgState = .valid := by
  cases he with
  | cfgLoaded _ hc => exact .inr ⟨rfl, hc, rfl⟩
  | busy | cfgAgain | cfgFailed | linkAgain | linkReported | frameShort | framed | linkAbsent | exhausted | accepted =>
    exact .inl ⟨rfl, rfl⟩

/-- CB changes only with a string handed to the radio, which then stands at its start. -/
def CbFollowsSends (s t : State) : Prop :=
  (t.outside.sends = s.outside.sends ∧ ∀ i, cbByte t.mem i = cbByte s.mem i) ∨
    ∃ sent, t.outside.sends = s.outside.sends ++ [sent] ∧
      ∀ i, i < 256 → cbByte t.mem i = if i < sent.length then sent[i]? else cbByte s.mem i

theorem CommandEffect.cbFollowsSends {s t : State} {i : Instr} (he : CommandEffect s i t) : CbFollowsSends s t := by
  cases he with
  | accepted len bytes pad d _ _ _ hb hp =>
    have hlen := encrypt_padded_length hb hp s.key (ivBlock (s.ivCtr + 1#64))
    exact .inr ⟨_, rfl, fun i _ => cbByte_writeCb s.mem _ i (hlen.le.trans (padLen_le len))⟩
  | framed len payload => exact .inl ⟨rfl, cbByte_stampHeader s.mem len _⟩
  | busy | cfgAgain | cfgFailed | cfgLoaded | linkAgain | linkReported | frameShort | linkAbsent | exhausted =>
    exact .inl ⟨rfl, fun _ => rfl⟩

/-! ## Stops (R48, R257) -/

/-- A command word whose frame bytes are written answers a next state. -/
theorem issueCommand_of_prepared {s : State} {w : Word} (hp : HostPrepared s w) : ∃ t, issueCommand w s = .next t := by
  cases hd : decodeWord w with
  | error r => exact ⟨_, by simp only [issueCommand, hd]; exact illegalCommand_eq s⟩
  | ok i =>
    rw [issueCommand_of_decodeWord hd]
    cases hx : exec i s with
    | next t => exact ⟨t, rfl⟩
    | refused r => exact absurd hx (exec_not_refused i s r)
    | fault f =>
      obtain ⟨len, k, rfl, hk, hu⟩ | ⟨len, k, rfl, hk, hu⟩ := (exec_fault hx).2
      · simp only [HostPrepared, hd] at hp
        simp [hp (3 + k) (by omega) hk] at hu
      · simp only [HostPrepared, hd] at hp
        simp [hp k (by omega) hk] at hu

theorem step_not_refused (s : State) (r : Refusal) : step s ≠ .refused r := by
  intro h
  obtain ⟨w, rest, -, hst⟩ := step_stops (s := s) (by simp [h])
  exact issueCommand_not_refused w _ r (acknowledge_refused (hst ▸ h))

/-- A step that does not answer is the write of a command whose issue does not answer. -/
theorem not_safe {s : State} (h : ¬ Safe s) : ∃ (w : Word) (rest : List Input),
    s.outside.inputs = .write 0x008#10 .w4 w :: rest ∧ ∀ t, issueCommand w (s.setInputs rest) ≠ .next t := by
  obtain ⟨w, rest, hin, hst⟩ := step_stops fun t ht => h ⟨t, ht⟩
  exact ⟨w, rest, hin, fun t ht => h ⟨_, by rw [hst, ht]; rfl⟩⟩

end Sys2Proof.Machine

open Sys2Proof Sys2Proof.Machine

/-- Settles O5: the bus hands an aligned word at CMD to `exec` of its decoding and acknowledges what that answers. -/
theorem stepRunsTheDecodedCommand : Obligations.StepRunsTheDecodedCommand := by
  unfold Obligations.StepRunsTheDecodedCommand
  refine fun s w rest i hin hd => ⟨fun t ht => ?_, fun f hf => ?_, exec_not_refused i _⟩
  · rw [step_decoded_command hin hd, ht]; rfl
  · rw [step_decoded_command hin hd, hf]; rfl

/-- Settles O8: the reset step writes R50's state, in which a completion finds SEQ idle, and CFG_STATE moves only from
UNCONFIGURED. -/
theorem resetInputRestoresEveryElement : Obligations.ResetInputRestoresEveryElement := by
  unfold Obligations.ResetInputRestoresEveryElement
  refine ⟨fun s rest hin => step_reset hin, fun s rest hin => ?_, fun s t h hr hc => ?_⟩
  · refine ⟨_, _, step_reset hin, step_radioDone rfl, ?_, ?_⟩ <;> rw [radioDone_idle rfl] <;> rfl
  · rwa [step_keeps_configured h hr hc]

/-- Settles O24: CFG_STATE and RADIO_STATE each move only from their reset value, by one command, whose words are
known. -/
theorem gateStatesHoldUntilReset : Obligations.GateStatesHoldUntilReset := by
  unfold Obligations.GateStatesHoldUntilReset
  refine fun s t h hr => ⟨step_cfgState_moved h hr, step_radioState_moved h hr, step_keeps_linkPresent h hr,
    fun hl => ?_⟩
  obtain ⟨hc, hu⟩ := (linkPresent_iff s).1 hl
  rwa [step_keeps_linkPresent h hr (by simp [hc]) (by simp [hu])]

/-- Settles O47: `step_seq` names the two events that move SEQ, each with the value it leaves. -/
theorem seqMovesOnlyByTransmitAndCompletion : Obligations.SeqMovesOnlyByTransmitAndCompletion := by
  unfold Obligations.SeqMovesOnlyByTransmitAndCompletion
  intro s t h
  rcases step_seq h with hs | ⟨hb, hl, hhead⟩ | ⟨hq, hhead⟩
  · exact ⟨fun hq hb => by simp [hs, hq] at hb, fun hb hq => by simp [hs, hb] at hq⟩
  · exact ⟨fun _ _ => ⟨hl, hhead⟩, fun _ hq => by simp [hb] at hq⟩
  · exact ⟨fun _ hb => by simp [hq] at hb, fun _ _ => hhead⟩

/-- Settles O48: of the step's effects only a command write's, legal or not, and the reset's write ERR. -/
theorem errIsWrittenOnlyByCommands : Obligations.ErrIsWrittenOnlyByCommands := by
  unfold Obligations.ErrIsWrittenOnlyByCommands
  exact fun s t h hne => (step_err h).resolve_left hne

/-- Settles O49: of the commands only a passed CFG_LOAD writes the key and the radio parameters, and of the other events
only the reset. -/
theorem keyAndRadioParametersComeOnlyFromCfgLoad : Obligations.KeyAndRadioParametersComeOnlyFromCfgLoad := by
  unfold Obligations.KeyAndRadioParametersComeOnlyFromCfgLoad
  intro s t h hr hne
  rcases step_command_or_kept h hr with ⟨i, hcmd⟩ | hk
  · have hhead := hcmd.head?
    obtain ⟨w, rest, u, -, -, he, rfl⟩ := hcmd
    obtain ⟨rfl, hc, hv⟩ := he.key_radioPort_eq_or.resolve_left fun hsame => hne.elim (· hsame.1) (· hsame.2)
    exact ⟨hhead, hc, hv⟩
  · exact (hne.elim (· hk.key) (· hk.radioPort_eq)).elim

/-- Settles O50: of the commands only an accepted TRANSMIT writes CB, with the string it hands over. -/
theorem cipherBufferFollowsTheSends : Obligations.CipherBufferFollowsTheSends := by
  unfold Obligations.CipherBufferFollowsTheSends
  intro s t h hr
  rcases step_command_or_kept h hr with ⟨i, w, rest, u, -, -, he, rfl⟩ | hk
  · exact he.cbFollowsSends
  · exact .inl ⟨hk.sends, hk.cb⟩

/-- Settles O51: only a command's `exec` can stop, and it stops only at an unwritten byte it reads. -/
theorem onlyUnwrittenBytesStopTheMachine : Obligations.OnlyUnwrittenBytesStopTheMachine := by
  unfold Obligations.OnlyUnwrittenBytesStopTheMachine
  refine ⟨step_not_refused, fun s hs => ?_, fun s w hhead hp => ?_⟩
  · by_contra hns
    obtain ⟨w, rest, hin, -⟩ := not_safe hns
    have hcmd := hs (.write 0x008#10 .w4 w) (by rw [hin]; rfl)
    simp [Input.isCommand] at hcmd
  · by_contra hns
    obtain ⟨w', rest, hin, hstop⟩ := not_safe hns
    obtain rfl : w' = w := by simpa [hin] using hhead
    obtain ⟨t, ht⟩ := issueCommand_of_prepared (s := s.setInputs rest) hp
    exact hstop t ht

/-- Settles O52: `takeNext` answers the state itself when no event is left. -/
theorem machineWaitsWithoutAnEvent : Obligations.MachineWaitsWithoutAnEvent := by
  unfold Obligations.MachineWaitsWithoutAnEvent
  exact fun s hin => step_waits hin

end

section
/-! PROOFS. Runs: the IV counter until a reset (spec/42_transmit.md R163, R176; 20_memory.md R72), a radio that never
completes, and a TRANSMIT and a completion together (60_exceptions.md R227, R235). -/

namespace Sys2Proof.Machine

/-! ## The counter and the strings handed to the radio -/

/-- From `s` to `t` the IV counter has grown by the number of strings handed to the radio (R176). -/
def CountsSends (s t : State) : Prop :=
  ∃ new : List (List Byte), t.outside.sends = s.outside.sends ++ new ∧ t.ivCtr.toNat = s.ivCtr.toNat + new.length

/-- A change that touches neither the counter nor the radio's strings. -/
theorem CountsSends.of_same {s t : State} (hs : t.outside.sends = s.outside.sends) (hc : t.ivCtr = s.ivCtr) :
    CountsSends s t := ⟨[], by rw [hs, List.append_nil], by rw [hc]; rfl⟩

theorem CountsSends.trans {s t u : State} : CountsSends s t → CountsSends t u → CountsSends s u := by
  rintro ⟨new, hsends, hctr⟩ ⟨new', hsends', hctr'⟩
  exact ⟨new ++ new', by rw [hsends', hsends, List.append_assoc],
    by rw [hctr', hctr, List.length_append, Nat.add_assoc]⟩

/-- Once configured, only an accepted TRANSMIT moves the counter, by one for its one string. -/
theorem CommandEffect.countsSends {s t : State} {i : Instr} (he : CommandEffect s i t) (hv : s.cfgState = .valid) :
    CountsSends s t := by
  cases he with
  | cfgFailed _ hc => simp [hv] at hc
  | cfgLoaded _ hc => simp [hv] at hc
  | accepted _ bytes pad d _ _ hctr => exact ⟨[_], rfl, ivCtr_succ_toNat hctr⟩
  | busy | cfgAgain | linkAgain | linkReported | frameShort | framed | linkAbsent | exhausted => exact .of_same rfl rfl

theorem step_countsSends {s t : State} (h : step s = .next t) (hr : s.outside.inputs.head? ≠ some .reset)
    (hv : s.cfgState = .valid) : CountsSends s t := by
  rcases step_command_or_kept h hr with ⟨i, w, rest, u, -, -, he, rfl⟩ | hk
  · exact he.countsSends (s := s.setInputs rest) hv
  · exact .of_same hk.sends hk.ivCtr

/-! ## Runs -/

/-- A run that answers a next state is its first step and the rest. -/
theorem core_run_succ_next {n : Nat} {s u : State} (h : Sys2Proof.core.run (n + 1) s = .next u) :
    ∃ t, step s = .next t ∧ Sys2Proof.core.run n t = .next u := by
  rw [core_run_succ] at h
  split at h
  next t hst => exact ⟨t, hst, h⟩
  all_goals cases h

theorem run_countsSends {n : Nat} {s t : State} (hv : s.cfgState = .valid) (hn : NoReset n s)
    (h : Sys2Proof.core.run n s = .next t) : CountsSends s t := by
  induction n generalizing s with
  | zero => cases h; exact .of_same rfl rfl
  | succ n ih =>
    obtain ⟨u, hst, hrun⟩ := core_run_succ_next h
    have hr := noReset_succ hn
    have hvu : u.cfgState = .valid := (step_keeps_configured hst hr (by simp [hv])).trans hv
    exact (step_countsSends hst hr hv).trans (ih hvu (noReset_step hn hst) hrun)

/-! ## IV blocks -/

theorem ivBlock_injective {c c' : Dword} (h : ivBlock c = ivBlock c') : c = c' := (append_eq_append_iff.1 h).1

/-- A TRANSMIT that leaves BUSY behind was accepted (R160). -/
theorem exec_transmit_accepted {s t : State} {len : Byte} (hq : s.seq = .idle) (h : exec (.transmit len) s = .next t)
    (hb : t.seq = .busy) : t.cfgState = .valid ∧ t.ivLast = ivBlock t.ivCtr ∧ t.ivCtr.toNat = s.ivCtr.toNat + 1 := by
  cases exec_next h with
  | accepted _ _ _ _ _ hl hv => exact ⟨((linkPresent_iff s).1 hl).1, rfl, ivCtr_succ_toNat hv⟩
  | busy _ hbusy => simp [hq] at hbusy
  | linkAbsent => simp [hq] at hb
  | exhausted => simp [hq] at hb

/-! ## Waiting for the radio (R235, R261) -/

/-- `t` still waits as `s` does, with nothing more sent. -/
def StillWaits (s t : State) : Prop :=
  t.seq = .busy ∧ t.csHeld = s.csHeld ∧ t.result = s.result ∧ t.outside.sends = s.outside.sends

theorem StillWaits.trans {s t u : State} : StillWaits s t → StillWaits t u → StillWaits s u := by
  rintro ⟨-, hcs, hresult, hsends⟩ ⟨hb, hcs', hresult', hsends'⟩
  exact ⟨hb, hcs'.trans hcs, hresult'.trans hresult, hsends'.trans hsends⟩

theorem regWrite_stillWaits {s : State} (hb : s.seq = .busy) (off : Nat) (v : Word) :
    StillWaits s (regWrite s off v) := by
  rw [regWrite_eq]; exact ⟨hb, rfl, rfl, rfl⟩

theorem CommandEffect.eq_of_busy {s t : State} {i : Instr} (he : CommandEffect s i t) (hb : s.seq = .busy) :
    t = s.setErr .busy := by
  cases he with
  | busy => rfl
  | cfgAgain hq | cfgFailed hq | cfgLoaded hq | linkAgain _ hq | linkReported _ hq | frameShort _ hq | framed _ _ hq
  | linkAbsent _ hq | exhausted _ hq | accepted _ _ _ _ hq => simp [hb] at hq

theorem safe_of_busy {s : State} (hb : s.seq = .busy) : Safe s := by
  by_contra hns
  obtain ⟨w, rest, -, hstop⟩ := not_safe hns
  exact hstop _ (issueCommand_busy (s := s.setInputs rest) hb w)

/-- A host access leaves a waiting SFE waiting. -/
theorem step_access_stillWaits {s t : State} {i : Input} {rest : List Input} (hin : s.outside.inputs = i :: rest)
    (ha : i.isAccess = true) (hb : s.seq = .busy) (h : step s = .next t) : StillWaits s t := by
  cases step_next h with
  | command w rest' _ j _ u he =>
    rw [he.eq_of_busy hb]
    exact ⟨hb, rfl, rfl, rfl⟩
  | register off v rest' => exact regWrite_stillWaits (s := s.setInputs rest') hb off.toNat v
  | radio rest' hin' => rw [hin] at hin'; cases hin'; cases ha
  | resets rest' hin' => rw [hin] at hin'; cases hin'; cases ha
  | waited | answered | illegal | buffer => exact ⟨hb, rfl, rfl, rfl⟩

theorem AccessesOnly.head {n : Nat} {s : State} (h : AccessesOnly (n + 1) s) :
    ∃ i rest, s.outside.inputs = i :: rest ∧ i.isAccess = true := by
  obtain ⟨hlen, hall⟩ := h
  cases hin : s.outside.inputs with
  | nil => simp [hin] at hlen
  | cons i rest => exact ⟨i, rest, rfl, hall i (by simp [hin])⟩

theorem AccessesOnly.step {n : Nat} {s t : State} (h : AccessesOnly (n + 1) s) (hst : step s = .next t) :
    AccessesOnly n t := by
  obtain ⟨hlen, hall⟩ := h
  rw [AccessesOnly, step_inputs hst]
  cases hin : s.outside.inputs with
  | nil => simp [hin] at hlen
  | cons i rest =>
    rw [hin] at hlen hall
    exact ⟨Nat.le_of_succ_le_succ hlen, fun j hj => hall j (List.mem_cons_of_mem i hj)⟩

theorem run_accesses_stillWaits {n : Nat} {s : State} (hb : s.seq = .busy) (ha : AccessesOnly n s) :
    ∃ t, Sys2Proof.core.run n s = .next t ∧ StillWaits s t ∧ t.outside.inputs = s.outside.inputs.drop n := by
  induction n generalizing s with
  | zero => exact ⟨s, rfl, ⟨hb, rfl, rfl, rfl⟩, rfl⟩
  | succ n ih =>
    obtain ⟨u, hst⟩ := safe_of_busy hb
    obtain ⟨i, rest, hin, hacc⟩ := ha.head
    have hw := step_access_stillWaits hin hacc hb hst
    obtain ⟨t, hrun, hwt, hinputs⟩ := ih hw.1 (ha.step hst)
    refine ⟨t, by simp only [core_run_succ, hst, hrun], hw.trans hwt, ?_⟩
    rw [hinputs, step_inputs hst, List.drop_tail]

/-! ## A TRANSMIT write and a completion (R227) -/

theorem step_command_busy {s : State} {w : Word} {rest : List Input}
    (hin : s.outside.inputs = .write 0x008#10 .w4 w :: rest) (hb : s.seq = .busy) :
    step s = .next (((s.setInputs rest).setErr .busy).setResponse .ack) := by
  rw [step_command hin, issueCommand_busy (s := s.setInputs rest) hb]
  rfl

/-- The step of an accepted TRANSMIT (R160). -/
theorem step_transmit_accepted {s : State} {len : Byte} {rest : List Input}
    (hin : s.outside.inputs = .write 0x008#10 .w4 (encode (.transmit len)) :: rest) (hq : s.seq = .idle)
    (hl : linkPresent s = true) (hv : s.ivCtr ≠ BitVec.allOnes 64) (hw : FbWritten s 0 len.toNat) :
    ∃ (p : List Byte) (d : Nat),
      step s = .next ((((s.setInputs rest).setDraws d).sendPadded p).setResponse .ack) := by
  obtain ⟨pad, d, -, hexec⟩ := exec_transmit_of_written (s := s.setInputs rest) hq hl hv hw
  exact ⟨_, d, by rw [step_decoded_command hin (decodeWord_encode rfl), hexec]; rfl⟩

/-- A waiting state after its completion, with these events to come (R169). -/
def State.afterDone (s : State) (l : List Input) : State :=
  { s with
    seq := .idle, csHeld := false, result := .sent,
    outside := { s.outside with inputs := l, dones := s.outside.dones + 1 } }

theorem step_completion {s : State} {rest : List Input} (hin : s.outside.inputs = .radioDone :: rest)
    (hb : s.seq = .busy) : step s = .next (s.afterDone rest) := by
  rw [step_radioDone hin, radioDone_busy (s := s.setInputs rest) hb]
  rfl

theorem core_run_two {s t u : State} (hst : step s = .next t) (htu : step t = .next u) :
    Sys2Proof.core.run 2 s = .next u := by
  simp only [core_run_succ, hst, htu, core_run_zero]

end Sys2Proof.Machine

open Sys2Proof Sys2Proof.Machine

/-- Settles O45, by induction on the run: a configured SFE stays configured, and each step counts its own sends. -/
theorem ivCounterCountsAcceptedTransmits : Obligations.IvCounterCountsAcceptedTransmits := by
  unfold Obligations.IvCounterCountsAcceptedTransmits
  exact fun n s t hv hn h => run_countsSends hv hn h

/-- Settles O46: the counter never falls in between and steps by one at the second TRANSMIT, and an IV block spells its
counter. -/
theorem acceptedTransmitsNeverShareAnIvBlock : Obligations.AcceptedTransmitsNeverShareAnIvBlock := by
  unfold Obligations.AcceptedTransmitsNeverShareAnIvBlock
  intro n s t u v len len' hs hst ht hn hrun hu huv hv heq
  obtain ⟨hvalid, hivt, -⟩ := exec_transmit_accepted hs hst ht
  obtain ⟨-, hivv, hstep⟩ := exec_transmit_accepted hu huv hv
  obtain ⟨new, -, hgrown⟩ := run_countsSends hvalid hn hrun
  have hsame : t.ivCtr = v.ivCtr := ivBlock_injective (by rw [← hivt, ← hivv, heq])
  rw [hsame] at hgrown
  omega

/-- Settles O41, by induction on the number of accesses: none of them can stop or end the wait. -/
theorem radioThatNeverCompletesHangs : Obligations.RadioThatNeverCompletesHangs := by
  unfold Obligations.RadioThatNeverCompletesHangs
  intro n s hb ha
  obtain ⟨t, hrun, ⟨hbt, hcs, hresult, hsends⟩, hinputs⟩ := run_accesses_stillWaits hb ha
  exact ⟨t, hrun, hbt, hcs, hresult, hsends, hinputs, (statusWord_busy t).trans (by simp [hbt]), issueCommand_busy hbt⟩

/-- Settles O42: the two steps are run in each order. -/
theorem simultaneousEventsInEitherOrder : Obligations.SimultaneousEventsInEitherOrder := by
  unfold Obligations.SimultaneousEventsInEitherOrder
  intro s len hb hl hv hw
  constructor
  · exact ⟨_, core_run_two (step_command_busy rfl hb) (step_completion rfl hb), rfl, rfl, rfl, rfl, rfl⟩
  · have hdone := step_completion (s := s.setInputs [.radioDone, .write 0x008#10 .w4 (encode (.transmit len))]) rfl hb
    obtain ⟨p, d, hsend⟩ := step_transmit_accepted (s := State.afterDone _ _) rfl rfl hl hv hw
    exact ⟨_, _, core_run_two hdone hsend, rfl, rfl, rfl, rfl, rfl⟩

end

section
/-! PROOFS. The AES-128 forward cipher (spec/43_aes128.md sections 2 to 5). -/

namespace Sys2Proof.Machine

/-! ## Products (R192) -/

theorem gmul_two (a : Byte) : gmul a 2#8 = xtime a := by
  simp [gmul, gmulFrom]

theorem gmul_three (a : Byte) : gmul a 3#8 = xtime a ^^^ a := by
  simp [gmul, gmulFrom, BitVec.xor_comm]

/-! ## The S-box (R193) -/

/-- R193's affine map. -/
def sboxAffine (b : Byte) : Byte :=
  b ^^^ b.rotateLeft 1 ^^^ b.rotateLeft 2 ^^^ b.rotateLeft 3 ^^^ b.rotateLeft 4 ^^^ 0x63#8

/-- The inverse of the affine map. -/
def sboxAffineInv (b : Byte) : Byte := b.rotateLeft 1 ^^^ b.rotateLeft 3 ^^^ b.rotateLeft 6 ^^^ 0x05#8

theorem sboxAffine_inv : ∀ b : Byte, sboxAffine (sboxAffineInv b) = b := by decide +kernel

/-- Undoing the affine map on the table's entry leaves the byte's inverse in the field. -/
theorem gmul_sboxAffineInv : ∀ a : Byte,
    if a = 0#8 then sboxAffineInv (sbox a) = 0#8 else gmul a (sboxAffineInv (sbox a)) = 1#8 := by decide +kernel

/-! ## The round transformations, byte by byte (R191, R194 to R197) -/

/-- MixColumns on a column given as a function of the row. -/
theorem mixColumn_eq (f : Nat → Byte) {r : Nat} (hr : r < 4) : mixColumn (f 0) (f 1) (f 2) (f 3) r =
    xtime (f r) ^^^ (xtime (f ((r + 1) % 4)) ^^^ f ((r + 1) % 4)) ^^^ f ((r + 2) % 4) ^^^ f ((r + 3) % 4) := by
  interval_cases r <;> simp only [mixColumn, gmul_two, gmul_three, Nat.reduceAdd, Nat.reduceMod] <;> ac_rfl

section
variable (st : Block) {r c : Nat} (hr : r < 4) (hc : c < 4)
include hr hc

theorem byteOf_subBytes : byteOf (subBytes st) (r + 4 * c) = sbox (byteOf st (r + 4 * c)) :=
  byteOf_blockOf _ _ (by omega)

theorem byteOf_shiftRows : byteOf (shiftRows st) (r + 4 * c) = byteOf st (r + 4 * ((c + r) % 4)) := by
  have hrow : (r + 4 * c) % 4 = r := by omega
  have hcol : (r + 4 * c) / 4 = c := by omega
  rw [shiftRows, byteOf_blockOf _ _ (by omega), hrow, hcol]

theorem byteOf_mixColumns : byteOf (mixColumns st) (r + 4 * c) =
    xtime (byteOf st (r % 4 + 4 * c)) ^^^
      (xtime (byteOf st ((r + 1) % 4 + 4 * c)) ^^^ byteOf st ((r + 1) % 4 + 4 * c)) ^^^
      byteOf st ((r + 2) % 4 + 4 * c) ^^^ byteOf st ((r + 3) % 4 + 4 * c) := by
  have hrow : (r + 4 * c) % 4 = r := by omega
  have hcol : (r + 4 * c) / 4 = c := by omega
  rw [mixColumns, byteOf_blockOf _ _ (by omega), hrow, hcol, Nat.mod_eq_of_lt hr]
  simp only [Nat.add_comm _ (4 * c)]
  exact mixColumn_eq (fun i => byteOf st (4 * c + i)) hr

/-- Row r of word c of four words side by side. -/
theorem byteOf_words (w : Nat → Word) :
    byteOf (w 0 ++ w 1 ++ w 2 ++ w 3) (r + 4 * c) = (w c).extractLsb' (8 * (3 - r)) 8 := by
  rw [byteOf]
  interval_cases c <;>
    simp (disch := omega) only [BitVec.extractLsb'_append_eq_of_le, BitVec.extractLsb'_append_eq_of_add_le] <;>
    congr 1 <;> omega

theorem byteOf_addRoundKey (w : List Word) (rnd : Nat) : byteOf (addRoundKey w st rnd) (r + 4 * c) =
    byteOf st (r + 4 * c) ^^^ (w.getD (4 * rnd + c) 0#32).extractLsb' (8 * (3 - r)) 8 := by
  rw [addRoundKey, byteOf, BitVec.extractLsb'_xor]
  exact congrArg _ (byteOf_words hr hc fun i => w.getD (4 * rnd + i) 0#32)

end

/-! ## RotWord and SubWord (R198) -/

section
variable (a0 a1 a2 a3 : Byte)

theorem extract_word : (a0 ++ a1 ++ a2 ++ a3).extractLsb' 0 8 = a3 ∧ (a0 ++ a1 ++ a2 ++ a3).extractLsb' 8 8 = a2 ∧
    (a0 ++ a1 ++ a2 ++ a3).extractLsb' 16 8 = a1 ∧ (a0 ++ a1 ++ a2 ++ a3).extractLsb' 24 8 = a0 := by
  have h := lanesOf_wordOfLanes a3 a2 a1 a0
  simpa only [lanesOf_eq, wordOfLanes, List.cons.injEq, and_true] using h

theorem subWord_append : subWord (a0 ++ a1 ++ a2 ++ a3) = sbox a0 ++ sbox a1 ++ sbox a2 ++ sbox a3 := by
  obtain ⟨h3, h2, h1, h0⟩ := extract_word a0 a1 a2 a3
  rw [subWord, h0, h1, h2, h3]

theorem rotWord_append : rotWord (a0 ++ a1 ++ a2 ++ a3) = a1 ++ a2 ++ a3 ++ a0 := by
  obtain ⟨h3, h2, h1, h0⟩ := extract_word a0 a1 a2 a3
  have hlow : (a0 ++ a1 ++ a2 ++ a3).extractLsb' 0 24 = a1 ++ a2 ++ a3 := by
    rw [← BitVec.extractLsb'_append_extractLsb'_eq_extractLsb' (start₂ := 8) (start₁ := 0) (len₂ := 16) (len₁ := 8) rfl,
      ← BitVec.extractLsb'_append_extractLsb'_eq_extractLsb' (start₂ := 16) (start₁ := 8) (len₂ := 8) (len₁ := 8) rfl,
      h1, h2, h3]
  rw [rotWord, hlow, h0]

end

/-! ## The key schedule (R199) -/

/-- R199's recurrence at word i. -/
def KeyRecurrence (w : List Word) (i : Nat) : Prop :=
  w.getD i 0#32 = w.getD (i - 4) 0#32 ^^^
    (if i % 4 = 0 then subWord (rotWord (w.getD (i - 1) 0#32)) ^^^ rcon (i / 4) else w.getD (i - 1) 0#32)

@[simp] theorem keyStep_length (w : List Word) (i : Nat) : (keyStep w i).length = w.length + 1 := by simp [keyStep]

/-- A pass leaves the words before it as they are. -/
theorem keyStep_getD (w : List Word) (j : Nat) {i : Nat} (h : i < w.length) :
    (keyStep w j).getD i 0#32 = w.getD i 0#32 := List.getD_append _ _ _ _ h

theorem keyStep_getD_length (w : List Word) (j : Nat) : (keyStep w j).getD w.length 0#32 = w.getD (j - 4) 0#32 ^^^
    (if j % 4 = 0 then subWord (rotWord (w.getD (j - 1) 0#32)) ^^^ rcon (j / 4) else w.getD (j - 1) 0#32) := by
  simp [keyStep, List.getD]

theorem keyStep_recurrence {w : List Word} (hw : ∀ i, 4 ≤ i → i < w.length → KeyRecurrence w i) {i : Nat} (hi : 4 ≤ i)
    (hlt : i < w.length + 1) : KeyRecurrence (keyStep w w.length) i := by
  rw [KeyRecurrence, keyStep_getD w _ (by omega : i - 4 < w.length), keyStep_getD w _ (by omega : i - 1 < w.length)]
  rcases Nat.lt_succ_iff_lt_or_eq.1 hlt with hold | rfl
  · rw [keyStep_getD w _ hold]
    exact hw i hi hold
  · exact keyStep_getD_length w w.length

/-- The schedule after n passes. -/
def keySchedule (key : Block) (n : Nat) : List Word :=
  (List.range' 4 n).foldl keyStep ((List.range 4).map fun i => key.extractLsb' (32 * (3 - i)) 32)

theorem keyExpansion_eq (key : Block) : keyExpansion key = keySchedule key 40 := rfl

theorem keySchedule_succ (key : Block) (n : Nat) : keySchedule key (n + 1) = keyStep (keySchedule key n) (4 + n) := by
  rw [keySchedule, List.range'_concat, List.foldl_append, Nat.one_mul]; rfl

theorem keySchedule_length (key : Block) (n : Nat) : (keySchedule key n).length = 4 + n := by
  induction n with
  | zero => rfl
  | succ n ih => rw [keySchedule_succ, keyStep_length, ih, Nat.add_assoc]

theorem keySchedule_getD_key (key : Block) (n : Nat) {i : Nat} (hi : i < 4) :
    (keySchedule key n).getD i 0#32 = key.extractLsb' (32 * (3 - i)) 32 := by
  induction n with
  | zero => interval_cases i <;> rfl
  | succ n ih => rw [keySchedule_succ, keyStep_getD _ _ (by rw [keySchedule_length]; omega), ih]

theorem keySchedule_recurrence (key : Block) (n : Nat) {i : Nat} (h4 : 4 ≤ i) (hi : i < 4 + n) :
    KeyRecurrence (keySchedule key n) i := by
  induction n generalizing i with
  | zero => omega
  | succ n ih =>
    have hlen := keySchedule_length key n
    rw [keySchedule_succ, ← hlen]
    exact keyStep_recurrence (fun j hj hlt => ih hj (by omega)) h4 (by omega)

/-- The first four words spell the key. -/
theorem words_of_key (key : Block) :
    key.extractLsb' 96 32 ++ key.extractLsb' 64 32 ++ key.extractLsb' 32 32 ++ key.extractLsb' 0 32 = key := by
  rw [BitVec.extractLsb'_append_extractLsb'_eq_extractLsb' (start₂ := 96) (start₁ := 64) (len₁ := 32) rfl,
    BitVec.extractLsb'_append_extractLsb'_eq_extractLsb' (start₂ := 64) (start₁ := 32) (len₁ := 32) rfl,
    BitVec.extractLsb'_append_extractLsb'_eq_extractLsb' (start₂ := 32) (start₁ := 0) (len₁ := 32) rfl]
  exact BitVec.extractLsb'_eq_self

end Sys2Proof.Machine

open Sys2Proof Sys2Proof.Machine

/-- Settles O53: both examples are run. -/
theorem aesGivesTheStandardsExample : Obligations.AesGivesTheStandardsExample := by
  unfold Obligations.AesGivesTheStandardsExample
  decide +kernel

/-- Settles O55: the inverse is what undoing the affine map on the table's entry gives, checked for the 256 entries. -/
theorem sboxIsTheAffineInverse : Obligations.SboxIsTheAffineInverse := by
  unfold Obligations.SboxIsTheAffineInverse
  exact fun a => ⟨sboxAffineInv (sbox a), gmul_sboxAffineInv a, (sboxAffine_inv (sbox a)).symm⟩

/-- Settles O54: SubBytes, ShiftRows and MixColumns are built byte by byte, and a round key is four words side by
side. -/
theorem roundTransformsFollowTheirRules : Obligations.RoundTransformsFollowTheirRules := by
  unfold Obligations.RoundTransformsFollowTheirRules
  exact fun st r c hr hc => ⟨byteOf_subBytes st hr hc, byteOf_shiftRows st hr hc, byteOf_mixColumns st hr hc,
    byteOf_addRoundKey st hr hc⟩

/-- Settles O56: by induction on the passes each word obeys the recurrence, and no pass changes an earlier word. -/
theorem keyScheduleFollowsItsRecurrence : Obligations.KeyScheduleFollowsItsRecurrence := by
  unfold Obligations.KeyScheduleFollowsItsRecurrence
  refine ⟨fun a0 a1 a2 a3 => ⟨rotWord_append a0 a1 a2 a3, subWord_append a0 a1 a2 a3⟩, by decide, fun key => ?_⟩
  rw [keyExpansion_eq]
  refine ⟨keySchedule_length key 40, ?_, fun i h4 hi => keySchedule_recurrence key 40 h4 hi⟩
  have hword {i : Nat} (hi : i < 4) := keySchedule_getD_key key 40 hi
  simp only [hword (i := 0) (by decide), hword (i := 1) (by decide), hword (i := 2) (by decide),
    hword (i := 3) (by decide)]
  exact words_of_key key

end
